-- ==== Sys2Proof/Word.lean ====
section
/-! DEFINITION. Word types: the widths the spec gives its values (00_scope R8 to R11, 10_state R20, R24).
No arithmetic of the spec stands here: element slices, extensions and byte order are in Decode.lean and Machine/. -/

namespace Sys2Proof

/-- One byte of memory or of an instruction (R10). -/
abbrev Byte := BitVec 8

/-- A dword: one element of destination or mask (R10, R120). -/
abbrev Dword := BitVec 32

/-- A qword: a general register, an address, a 64-bit index (R10, R20). -/
abbrev Qword := BitVec 64

/-- What a vector register holds: a number of bits, which is `CFG.VLMAX` in every register (R7, R24; assumption log 3),
and the bits. `YMMn` is bits 255:0, `XMMn` is bits 127:0. -/
structure VReg where
  width : Nat
  bits : BitVec width
  deriving DecidableEq, Repr

end Sys2Proof
end

