-- ==== Sys2Proof/Config.lean ====
section
/-! DEFINITION. The names the spec fixes (modes, segments, address sizes, scales, forms), the configuration record
`CFG` (00_scope R6) and the free values: what the spec leaves to a draw, as opaque constants nothing can evaluate. -/

namespace Sys2Proof

/-- Where the processor executes (R33, R101). Only `mode64` and `mode32` run the encodings; `real` and `v8086` raise
#UD; a 16-bit code segment in protected mode (`code16`) is refused. -/
inductive Mode where
  | mode64 | mode32 | real | v8086 | code16
  deriving DecidableEq, Repr

/-- The six segment registers (R36). -/
inductive Seg where
  | es | cs | ss | ds | fs | gs
  deriving DecidableEq, Repr

/-- The address sizes an admitted encoding can have (R100, R108); 16 is #UD before a record exists (R105). -/
inductive AddrSize where
  | a32 | a64
  deriving DecidableEq, Repr

/-- The scale factor 1, 2, 4 or 8 (R91). -/
inductive Scale where
  | x1 | x2 | x4 | x8
  deriving DecidableEq, Repr

/-- The four forms of R120. -/
inductive Form where
  | dps128 | dps256 | qps128 | qps256
  deriving DecidableEq, Repr

/-- `CFG.MASK_NORM_ON_FAULT` (R6, R142). -/
inductive MaskNorm where
  | pseudocode | any
  deriving DecidableEq, Repr

/-- `CFG.MODE32_VVVV3` (R6, R86): what bit 3 of `VEX.vvvv` does in `Mode32`. -/
inductive Vvvv3 where
  | ignored | ud
  deriving DecidableEq, Repr

/-- The open and decided parameters of `CFG` that are plain values (R6). They are held in `State.cfg`, constant over
a run, so that a claim about every state holds for every configuration (assumption log 4). -/
structure Cfg where
  /-- `CFG.VLMAX`, as the number of 128-bit lanes above the first two: a multiple of 128 and at least 256 (R7). -/
  upperLanes : Nat
  /-- `CFG.LA_BITS`: significant linear-address bits in `Mode64`. -/
  laBits : Nat
  /-- `CFG.AVX2`: the processor reports the feature flag (R35). -/
  avx2 : Bool
  /-- `CFG.MASK_NORM_ON_FAULT`. -/
  maskNorm : MaskNorm
  /-- `CFG.MODE32_VVVV3`. -/
  vvvv3 : Vvvv3
  deriving DecidableEq, Repr

/-- `CFG.VLMAX` (R6, R7): the width in bits of a vector register. -/
def Cfg.vlmax (c : Cfg) : Nat := 256 + 128 * c.upperLanes

/-- The defaults of R6's table. -/
def Cfg.default : Cfg := { upperLanes := 0, laBits := 48, avx2 := true, maskNorm := .pseudocode, vvvv3 := .ignored }

/-- FREE VALUE (R143): the draw `zD` of the fault exit numbered by the counter `State.draws` (assumption log 6). -/
opaque Config.zeroDest : Nat → Bool

/-- FREE VALUE (R143): the draw `zM` of the fault exit numbered by the counter (assumption log 6). -/
opaque Config.zeroMask : Nat → Bool

/-- FREE VALUE (R142, R143): at fault exit `k`, whether mask element `j` keeps its old value; consulted only under
`CFG.MASK_NORM_ON_FAULT = any` (assumption log 6). -/
opaque Config.keepMask : (k j : Nat) → Bool

/-- FREE VALUE (R60, R193): the draw `b*` of a fault exit, an index among the faulting bytes (assumption log 6). -/
opaque Config.pickByte : Nat → Nat

end Sys2Proof
end

