-- ==== Sys2Proof/Syntax.lean ====
section
/-! DEFINITION. The instructions: one constructor per row of spec/opcode_table.json, over the decoded operand record
of 30_encoding R108. -/

namespace Sys2Proof

/-- The operands of a decoded gather: the record `Gather` of R108 without its `form`, which the constructor of
`Instr` gives. -/
structure Gather where
  /-- Operand 1, `ModRM:reg` extended by `R'` (R92). -/
  dest : Fin 16
  /-- The vector index register, `VSIB:index` extended by `X'` (R92). -/
  index : Fin 16
  /-- Operand 3, `VEX.vvvv` (R92). -/
  mask : Fin 16
  /-- The base general register, or none: `BASE_ADDR = 0` (R96). -/
  base : Option (Fin 16)
  scale : Scale
  /-- The displacement, sign-extended to the address size; bits above a 32-bit address size are 0 (R97). -/
  disp : Qword
  /-- The segment of the memory operand (R99). -/
  seg : Seg
  /-- The address size `A` (R100). -/
  asize : AddrSize
  /-- The instruction's length in bytes, legacy prefixes included (R81). -/
  len : Nat
  deriving DecidableEq, Repr

/-- The four encodings, in the order of the opcode table (R80). -/
inductive Instr where
  /-- `VGATHERDPS xmm1, vm32x, xmm2` (R160). -/
  | vgatherdps128 (g : Gather)
  /-- `VGATHERQPS xmm1, vm64x, xmm2` (R170). -/
  | vgatherqps128 (g : Gather)
  /-- `VGATHERDPS ymm1, vm32y, ymm2` (R161). -/
  | vgatherdps256 (g : Gather)
  /-- `VGATHERQPS xmm1, vm64y, xmm2` (R171). -/
  | vgatherqps256 (g : Gather)
  deriving DecidableEq, Repr

end Sys2Proof
end

