-- ==== Sys2Proof/Decode.lean ====
section
/-! DEFINITION. The decoder of 30_encoding R109, total on any byte list, and the encoder written from the same
layouts (R84 to R97, R99, R100). -/

namespace Sys2Proof

/-! ## Parts shared by decoder and encoder -/

/-- The operands of an instruction. -/
def Instr.gather : Instr → Gather
  | .vgatherdps128 g => g
  | .vgatherqps128 g => g
  | .vgatherdps256 g => g
  | .vgatherqps256 g => g

/-- The form of an instruction (R120). -/
def Instr.form : Instr → Form
  | .vgatherdps128 _ => .dps128
  | .vgatherqps128 _ => .qps128
  | .vgatherdps256 _ => .dps256
  | .vgatherqps256 _ => .qps256

/-- The instruction of a form. -/
def Form.instr : Form → Gather → Instr
  | .dps128, g => .vgatherdps128 g
  | .qps128, g => .vgatherqps128 g
  | .dps256, g => .vgatherdps256 g
  | .qps256, g => .vgatherqps256 g

/-- Modes in which the encodings execute (R101). -/
def Mode.executes : Mode → Bool
  | .mode64 => true
  | .mode32 => true
  | .real => false
  | .v8086 => false
  | .code16 => false

/-- R102: some two of destination, index and mask are the same register. -/
def Gather.overlaps (g : Gather) : Bool :=
  g.dest == g.index || g.dest == g.mask || g.index == g.mask

/-- The segment-override bytes of R83. -/
def segOfByte (b : Byte) : Option Seg :=
  if b = 0x26#8 then some .es
  else if b = 0x2E#8 then some .cs
  else if b = 0x36#8 then some .ss
  else if b = 0x3E#8 then some .ds
  else if b = 0x64#8 then some .fs
  else if b = 0x65#8 then some .gs
  else none

/-- The override byte of a segment (R83). -/
def Seg.byte : Seg → Byte
  | .es => 0x26#8
  | .cs => 0x2E#8
  | .ss => 0x36#8
  | .ds => 0x3E#8
  | .fs => 0x64#8
  | .gs => 0x65#8

/-- R99: the default segment, SS for bases 4 and 5 and DS otherwise. -/
def defaultSeg (base : Option (Fin 16)) : Seg :=
  if base = some 4 ∨ base = some 5 then .ss else .ds

/-- R99: the segment of the memory operand from the override (if any), the mode and the base. -/
def operandSeg (mode : Mode) (override : Option Seg) (base : Option (Fin 16)) : Seg :=
  match mode, override with
  | .mode64, some .fs => .fs
  | .mode64, some .gs => .gs
  | .mode64, _ => defaultSeg base
  | _, some sg => sg
  | _, none => defaultSeg base

/-- R97: sign extension of a displacement of `w` bits to the address size. -/
def extendDisp {w : Nat} (a : AddrSize) (d : BitVec w) : Qword :=
  match a with
  | .a64 => d.signExtend 64
  | .a32 => (d.signExtend 32).setWidth 64

/-- R100: the address size, `none` for 16 bits. -/
def addrSize (mode : Mode) (has67 : Bool) : Option AddrSize :=
  match mode, has67 with
  | .mode64, false => some .a64
  | .mode64, true => some .a32
  | _, false => some .a32
  | _, true => none

/-- R91: the `scale` field of the SIB byte. -/
def scaleOfField (f : BitVec 2) : Scale :=
  if f = 0#2 then .x1 else if f = 1#2 then .x2 else if f = 2#2 then .x4 else .x8

/-- R91, the other way. -/
def Scale.field : Scale → BitVec 2
  | .x1 => 0#2
  | .x2 => 1#2
  | .x4 => 2#2
  | .x8 => 3#2

/-- R92: a register number from its extension bit (stored inverted; 0 outside `Mode64`) and its three-bit field. -/
def regNumber (mode : Mode) (inverted : BitVec 1) (low : BitVec 3) : Fin 16 :=
  match mode with
  | .mode64 => (~~~inverted ++ low).toFin
  | _ => (0#1 ++ low).toFin

/-- R92, R86: the mask number from `vvvv'`. In `Mode32` with `CFG.MODE32_VVVV3 = ignored` bit 3 is dropped. -/
def maskNumber (mode : Mode) (cfg : Vvvv3) (vvvv : BitVec 4) : Fin 16 :=
  match mode, cfg with
  | .mode64, _ => (~~~vvvv).toFin
  | _, .ud => (~~~vvvv).toFin
  | _, .ignored => (0#1 ++ ~~~(vvvv.extractLsb' 0 3)).toFin

/-! ## The decoder -/

/-- Why a byte string is `NotInScope` (R107, R83, R86, R101), or too short to tell. -/
inductive Reject where
  /-- A second 67H (R83). -/
  | repeatedAddressSize
  /-- A second segment override (R83). -/
  | repeatedSegment
  /-- No three-byte VEX escape C4H after the legacy bytes (R109). -/
  | notVex
  /-- Outside `Mode64`, C4H with bits 7:6 of the next byte not 11b: another instruction (R86). -/
  | notVexOutside64
  /-- Another opcode map or implied 66H/F2H/F3H field (R107). -/
  | otherMap
  /-- Another opcode byte (R107). -/
  | otherOpcode
  /-- `W = 1` (R107). -/
  | wideForm
  /-- A 16-bit code segment (R101). -/
  | codeSegment16
  /-- The program's bytes end inside the instruction. -/
  | truncated
  deriving DecidableEq, Repr

/-- What the decoder answers (R109). -/
inductive Decoded where
  | ok (i : Instr)
  | ud
  | reject (r : Reject)
  deriving DecidableEq, Repr

/-- The legacy bytes read so far: how many, and which (R83). -/
structure Legacy where
  count : Nat
  has67 : Bool
  seg : Option Seg
  deriving DecidableEq, Repr

/-- The first loop of R109: at most one 67H and at most one segment override, in either order. -/
def scanLegacy : Legacy → List Byte → Except Reject (Legacy × List Byte)
  | l, [] => .ok (l, [])
  | l, b :: rest =>
    if b = 0x67#8 then
      if l.has67 then .error .repeatedAddressSize
      else scanLegacy { l with count := l.count + 1, has67 := true } rest
    else
      match segOfByte b with
      | some sg =>
        if l.seg.isSome then .error .repeatedSegment
        else scanLegacy { l with count := l.count + 1, seg := some sg } rest
      | none => .ok (l, b :: rest)

/-- R83: LOCK, 66H, F2H, F3H anywhere, REX in `Mode64`: forbidden before a VEX escape. -/
def isForbidden (mode : Mode) (b : Byte) : Bool :=
  b == 0xF0#8 || b == 0x66#8 || b == 0xF2#8 || b == 0xF3#8 || (mode == .mode64 && b.extractLsb' 4 4 == 4#4)

/-- R89: how many displacement bytes follow the SIB byte, from `mod` and whether the form has a base. -/
def dispCount (mod : BitVec 2) (noBase : Bool) : Nat :=
  if mod = 1#2 then 1 else if mod = 2#2 ∨ noBase = true then 4 else 0

/-- R97: the displacement of `n` bytes, low byte first; `none` when the bytes run out. -/
def readDisp (a : AddrSize) : (n : Nat) → List Byte → Option Qword
  | 0, _ => some 0#64
  | 1, b0 :: _ => some (extendDisp a b0)
  | 4, b0 :: b1 :: b2 :: b3 :: _ => some (extendDisp a (b3 ++ b2 ++ b1 ++ b0))
  | _, _ => none

/-- R109 from the ModRM byte on: `v1`, `v2` and the opcode have been recognised and the address size is known.
R102's test (#UD for overlapping registers) is made by the meaning, before it reads anything (assumption log 16). -/
def decodeOperands (mode : Mode) (cfg : Vvvv3) (legacy : Legacy) (a : AddrSize) (v1 v2 op : Byte)
    (bytes : List Byte) : Decoded :=
  match bytes with
  | [] => .reject .truncated
  | m :: afterM =>
    if m.extractLsb' 6 2 = 3#2 then .ud
    else if m.extractLsb' 0 3 ≠ 4#3 then .ud
    else
      match afterM with
      | [] => .reject .truncated
      | sib :: afterSib =>
        if mode ≠ .mode64 ∧ cfg = .ud ∧ v2.extractLsb' 6 1 = 0#1 then .ud
        else
          let noBase := m.extractLsb' 6 2 == 0#2 && sib.extractLsb' 0 3 == 5#3
          let base := if noBase then none else some (regNumber mode (v1.extractLsb' 5 1) (sib.extractLsb' 0 3))
          let dlen := dispCount (m.extractLsb' 6 2) noBase
          let form : Form :=
            match op == 0x92#8, v2.extractLsb' 2 1 == 0#1 with
            | true, true => .dps128
            | true, false => .dps256
            | false, true => .qps128
            | false, false => .qps256
          let g : Gather :=
            { dest := regNumber mode (v1.extractLsb' 7 1) (m.extractLsb' 3 3)
              index := regNumber mode (v1.extractLsb' 6 1) (sib.extractLsb' 3 3)
              mask := maskNumber mode cfg (v2.extractLsb' 3 4)
              base := base
              scale := scaleOfField (sib.extractLsb' 6 2)
              disp := 0#64
              seg := operandSeg mode legacy.seg base
              asize := a
              len := legacy.count + 6 + dlen }
          match readDisp a dlen afterSib with
          | some d => .ok (form.instr { g with disp := d })
          | none => if g.overlaps then .ud else .reject .truncated

/-- R109 from the VEX escape on. `forbidden` says that a byte of `isForbidden` stood before it, `enabled` is
`enabled(env)` of R34. -/
def decodeVex (mode : Mode) (enabled : Bool) (cfg : Vvvv3) (legacy : Legacy) (forbidden : Bool) (bytes : List Byte) :
    Decoded :=
  match bytes with
  | [] => .reject .truncated
  | c :: rest =>
    if c ≠ 0xC4#8 then .reject .notVex
    else
      match rest with
      | v1 :: v2 :: op :: rest =>
        if mode ≠ .mode64 ∧ v1.extractLsb' 6 2 ≠ 3#2 then .reject .notVexOutside64
        else if v1.extractLsb' 0 5 ≠ 2#5 ∨ v2.extractLsb' 0 2 ≠ 1#2 then .reject .otherMap
        else if op ≠ 0x92#8 ∧ op ≠ 0x93#8 then .reject .otherOpcode
        else if v2.extractLsb' 7 1 = 1#1 then .reject .wideForm
        else if forbidden then .ud
        else if mode.executes = false ∨ enabled = false then .ud
        else
          match addrSize mode legacy.has67 with
          | none => .ud
          | some a => decodeOperands mode cfg legacy a v1 v2 op rest
      | _ => .reject .truncated

/-- The decoder of R109 on the bytes at `pc`; `enabled` is `enabled(env)` of R34. In real-address and virtual-8086 mode
the four encodings are #UD (R101), recognised as outside `Mode64` (assumption log 17). -/
def decode (mode : Mode) (enabled : Bool) (cfg : Vvvv3) (bytes : List Byte) : Decoded :=
  if mode = .code16 then .reject .codeSegment16
  else
    match scanLegacy { count := 0, has67 := false, seg := none } bytes with
    | .error r => .reject r
    | .ok (legacy, rest) =>
      match rest with
      | [] => .reject .truncated
      | b :: after =>
        if isForbidden mode b then decodeVex mode enabled cfg legacy true after
        else decodeVex mode enabled cfg legacy false (b :: after)

/-! ## The encoder -/

/-- The opcode byte (R87). -/
def Form.opcode : Form → Byte
  | .dps128 => 0x92#8
  | .dps256 => 0x92#8
  | .qps128 => 0x93#8
  | .qps256 => 0x93#8

/-- `VEX.L` (R84, R85). -/
def Form.vexL : Form → BitVec 1
  | .dps128 => 0#1
  | .dps256 => 1#1
  | .qps128 => 0#1
  | .qps256 => 1#1

/-- Whether the address size needs a 67H in this mode (R100): 1 or 0 bytes. -/
def Gather.need67 (mode : Mode) (g : Gather) : Nat :=
  if mode = .mode64 ∧ g.asize = .a32 then 1 else 0

/-- Whether the segment needs an override byte (R99): 1 or 0 bytes. -/
def Gather.needSeg (g : Gather) : Nat :=
  if g.seg = defaultSeg g.base then 0 else 1

/-- The bits of a register number, bit 3 on top (R92). -/
def regBits (r : Fin 16) : BitVec 4 := BitVec.ofFin (w := 4) r

/-- R89, R97: a displacement field of `n` bytes can hold the operand's displacement and base. -/
def Gather.fitsDisp (g : Gather) (n : Nat) : Bool :=
  match n, g.base with
  | 0, some b => g.disp == 0#64 && (regBits b).extractLsb' 0 3 != 5#3
  | 1, some _ => g.disp == extendDisp g.asize (g.disp.setWidth 8)
  | 4, _ => g.disp == extendDisp g.asize (g.disp.setWidth 32)
  | _, _ => false

/-- The length leaves room for prefixes when the displacement has `n` bytes: the needed ones, and at most
one override that the segment does not need (R81, R83). -/
def Gather.fitsLength (mode : Mode) (g : Gather) (n : Nat) : Bool :=
  decide (g.need67 mode + g.needSeg + 6 + n ≤ g.len) && decide (g.len ≤ g.need67 mode + 1 + 6 + n)

/-- The displacement size the encoder takes: the shortest that the operands and the length admit
(assumption log 26). -/
def Gather.dispBytes (mode : Mode) (g : Gather) : Option Nat :=
  [0, 1, 4].find? (fun n => g.fitsDisp n && g.fitsLength mode n)

/-- R97: the displacement's bytes, low byte first. -/
def encodeDisp (d : Qword) : Nat → List Byte
  | 1 => [d.setWidth 8]
  | 4 => [d.extractLsb' 0 8, d.extractLsb' 8 8, d.extractLsb' 16 8, d.extractLsb' 24 8]
  | _ => []

/-- The ModRM `mod` field (R89). -/
def modField (g : Gather) (n : Nat) : BitVec 2 :=
  if n = 1 then 1#2 else if n = 4 ∧ g.base.isSome then 2#2 else 0#2

/-- The four VEX-escape and opcode bytes (R84, R87). -/
def encodeVex (f : Form) (g : Gather) : List Byte :=
  [ 0xC4#8,
    ~~~((regBits g.dest).extractLsb' 3 1) ++ ~~~((regBits g.index).extractLsb' 3 1)
      ++ ~~~((regBits (g.base.getD 0)).extractLsb' 3 1) ++ 2#5,
    0#1 ++ ~~~(regBits g.mask) ++ f.vexL ++ 1#2,
    f.opcode ]

/-- ModRM, SIB and displacement (R88 to R90, R97). -/
def encodeOperands (g : Gather) (n : Nat) : List Byte :=
  [ modField g n ++ (regBits g.dest).extractLsb' 0 3 ++ 4#3,
    g.scale.field ++ (regBits g.index).extractLsb' 0 3
      ++ (match g.base with
          | some b => (regBits b).extractLsb' 0 3
          | none => 5#3) ] ++ encodeDisp g.disp n

/-- The legacy bytes (R83): 67H where the address size needs it, then an override where the length has room. -/
def encodeLegacy (mode : Mode) (g : Gather) (n : Nat) : List Byte :=
  (if g.need67 mode = 1 then [0x67#8] else [])
    ++ (if g.len = g.need67 mode + 1 + 6 + n then [g.seg.byte] else [])

/-- The bytes of an instruction in a mode; for operands no encoding has, the empty list. -/
def encode (mode : Mode) (i : Instr) : List Byte :=
  match i.gather.dispBytes mode with
  | none => []
  | some n => encodeLegacy mode i.gather n ++ encodeVex i.form i.gather ++ encodeOperands i.gather n

/-! ## The host's question: what an opcode-table word decodes to -/

/-- `n` bytes of a number, the least significant first. -/
def bytesOfNat : (n : Nat) → Nat → List Byte
  | 0, _ => []
  | n + 1, w => BitVec.ofNat 8 w :: bytesOfNat n (w / 256)

/-- The longest encoding: 12 bytes (R81). -/
def maxLength : Nat := 12

/-- The bytes of a table word: `nbits` bits laid out from the lowest address, then zeros up to the longest
encoding. -/
def tableBytes (nbits w : Nat) : List Byte :=
  bytesOfNat maxLength (w % 2 ^ nbits)

/-- The instruction the decoder reads from an opcode-table word, in `Mode64` (the table's match words have
`R' = X' = 0`, which only `Mode64` decodes, R86), on an enabled processor. -/
def decodeTableWord (nbits w : Nat) : Option Instr :=
  match decode .mode64 true .ignored (tableBytes nbits w) with
  | .ok i => some i
  | .ud => none
  | .reject _ => none

end Sys2Proof
end

