-- ==== Sys2Proof/WellFormed.lean ====
section
/-! DEFINITION. Which operand records some byte string of a mode encodes (30_encoding R81 to R108). -/

namespace Sys2Proof

/-- R24, R86: outside `Mode64` only registers 0 to 7 can be named. -/
def Gather.regsReachable (mode : Mode) (g : Gather) : Bool :=
  mode == .mode64
    || (decide (g.dest < 8) && decide (g.index < 8) && decide (g.mask < 8)
        && (match g.base with
            | some b => decide (b < 8)
            | none => true))

/-- R99: the segments the mode can select for this base. -/
def Gather.segReachable (mode : Mode) (g : Gather) : Bool :=
  mode != .mode64 || g.seg == .fs || g.seg == .gs || g.seg == defaultSeg g.base

/-- R100: the address size is one the mode has. -/
def Gather.sizeReachable (mode : Mode) (g : Gather) : Bool :=
  mode == .mode64 || g.asize == .a32

/-- An instruction some encoding of the mode stands for, and that is not #UD by R102. -/
def Instr.wf (mode : Mode) (i : Instr) : Bool :=
  mode.executes && !i.gather.overlaps && i.gather.regsReachable mode && i.gather.segReachable mode
    && i.gather.sizeReachable mode && (i.gather.dispBytes mode).isSome

end Sys2Proof
end

