-- ==== Sys2Proof/Machine/State.lean ====
section
/-! DEFINITION. The machine's state (10_state R41 and every piece of state the other rules name), the reasons a step
can stop, and the state after reset (10_state R42). -/

namespace Sys2Proof.Machine

/-! ## Parts of the state -/

/-- A range of 64-bit addresses: `len` bytes from `base` upward, counted modulo 2^64. -/
structure Range where
  base : Qword
  len : Nat
  deriving DecidableEq, Repr

/-- What `Translate` answers for one linear byte address (R59). -/
inductive Translation where
  /-- The physical byte address. -/
  | phys (a : Qword)
  /-- The page-fault record `PF(errcode)`. -/
  | fault (errcode : Dword)
  deriving DecidableEq, Repr

/-- One entry of `Translate` as data (assumption log 7): a range of linear addresses, the privilege level it applies
to (`none`: every level), and the physical address of its first byte or the page fault its bytes give. -/
structure TransEntry where
  range : Range
  cpl : Option (BitVec 2)
  target : Translation
  deriving DecidableEq, Repr

/-- Which offsets have their four bytes inside a segment's limit (R58). R58 leaves `SegCheck` a function of the launch,
which may be any predicate; `offsets` can name any set (assumption log 8). -/
inductive Limit where
  /-- The highest offset inside the segment: the four bytes lie inside if the last of them does. -/
  | top (highest : Dword)
  /-- The offsets accepted, as ranges: an expand-down segment, or one whose offsets wrap. -/
  | offsets (accepted : List Range)
  deriving DecidableEq, Repr

/-- A segment register's hidden part (R36, R58): what `SegBase` and `SegCheck` read (assumption log 8). -/
structure Segment where
  base : Qword
  limit : Limit
  /-- The segment's type allows reading. -/
  readable : Bool
  /-- The selector is null. -/
  null : Bool
  deriving DecidableEq, Repr

/-- The control-register and descriptor bits of R33. -/
structure Control where
  /-- CR0.PE -/
  pe : Bool
  /-- CR0.TS -/
  ts : Bool
  /-- CR0.AM, read by nothing (R33). -/
  am : Bool
  /-- CR0.PG, read only by `Translate`, which is the identity when it is off (R33, R59). -/
  pg : Bool
  /-- CR4.OSXSAVE -/
  osxsave : Bool
  /-- XCR0 bit 1, SSE state -/
  sse : Bool
  /-- XCR0 bit 2, AVX state -/
  avx : Bool
  /-- IA32_EFER.LMA -/
  lma : Bool
  /-- CS descriptor L -/
  csL : Bool
  /-- CS descriptor D -/
  csD : Bool
  deriving DecidableEq, Repr

/-- The flags of R31 and R33 other than RF, which has a field of its own (R30). No instruction writes one; VM is
read by the mode (R33). -/
structure Flags where
  cf : Bool
  pf : Bool
  af : Bool
  zf : Bool
  sf : Bool
  of : Bool
  vm : Bool
  ac : Bool
  deriving DecidableEq, Repr

/-- The record `Env` of R34, a view of the control bits. -/
structure Env where
  mode : Mode
  ts : Bool
  osxsave : Bool
  xcr0SseAvx : Bool
  avx2 : Bool
  deriving DecidableEq, Repr

/-- The kind of a delivered exception (R196). -/
inductive ExcKind where
  | fault | trap | interrupt
  deriving DecidableEq, Repr

/-- The kind of a pending event (R200). -/
inductive EventKind where
  | trap | interrupt
  deriving DecidableEq, Repr

/-- A pending trap or interrupt (R39, R200; assumption log 10): it is reported at a fault exit with a completed
element, if `watch` is `none` or some completed element has a byte in the watched linear range. -/
structure PendingEvent where
  vec : Nat
  kind : EventKind
  watch : Option Range
  deriving DecidableEq, Repr

/-- The record of an `Exception` outcome (R196) less its `s'`, which is the state holding the record. -/
structure Delivered where
  vec : Nat
  errcode : Option Dword
  kind : ExcKind
  savedPc : Qword
  savedRf : Bool
  deriving DecidableEq, Repr

/-- A memory exception of one element (R130, R184 to R186). A page fault lists every faulting byte of the element,
each with its linear address and error code; which one is reported is a draw (R193). -/
inductive ElemExc where
  | gp0
  | ss0
  | pf (faults : List (Qword × Dword))
  deriving DecidableEq, Repr

/-- The outcome `r_j` of element `j` (R130). -/
inductive Load where
  /-- The element is inactive and not accessed (R67). -/
  | idle
  /-- The 32-bit value, and the physical addresses of its four bytes. -/
  | ok (val : Dword) (phys : List Qword)
  | exc (e : ElemExc)
  /-- A byte lies in `IoAddrs` (R65). -/
  | device
  deriving DecidableEq, Repr

/-- One read event of R75: the element, the physical addresses of its bytes, and the value. -/
structure ReadEvent where
  elem : Nat
  phys : List Qword
  val : Dword
  deriving DecidableEq, Repr

/-- The program bytes, at consecutive addresses from `base` (R73, R241). -/
structure Program where
  base : Qword
  bytes : List Byte
  deriving DecidableEq, Repr

/-- Physical memory: the listed bytes by address; an unlisted address reads 0 (R37; assumption log 11). -/
abbrev Memory := List Host.Cell

/-- One thing the environment's `Handle` step does between a fault and its continuation (R202; assumption log 2). -/
inductive HandlerEdit where
  /-- Leave another value in a general register. -/
  | setX (i : Fin 16) (val : Qword)
  /-- Leave another value in a vector register, taken at `CFG.VLMAX` bits. -/
  | setV (i : Fin 16) (val : VReg)
  /-- `MemWrite` of R61 at a linear address, translated at the privilege level named (assumption log 28). -/
  | store (cpl : BitVec 2) (la : Qword) (bytes : List Byte)
  /-- Another `Translate`, such as a page mapped (R61, R145). -/
  | setTrans (t : List TransEntry)
  /-- Other control bits, such as TS cleared after #NM (R232); the bits that make the mode stay (R205). -/
  | setControl (c : Control)
  /-- Other flags; VM, which is part of the mode, stays (R205). -/
  | setFlags (f : Flags)
  | setMxcsr (val : Dword)
  | setCr2 (val : Qword)
  | setSegment (sg : Seg) (val : Segment)
  | setIo (io : List Range)
  | setPending (p : List PendingEvent)
  deriving DecidableEq, Repr

/-! ## The state -/

/-- The machine: the record of R41 and the launch parameters the other rules name. -/
structure State where
  /-- General registers (R20). -/
  x : Vector Qword 16
  /-- Vector registers (R24). -/
  v : Vector VReg 16
  /-- The address of the instruction being executed (R28). -/
  pc : Qword
  /-- The resume flag (R30). -/
  rf : Bool
  /-- The other flags (R31, R33). -/
  flags : Flags
  /-- MXCSR (R32), neither read nor written. -/
  mxcsr : Dword
  /-- The page-fault linear address (R33, R186). -/
  cr2 : Qword
  /-- The control bits of R33. -/
  ctl : Control
  /-- The current privilege level (R59, R205). -/
  cpl : BitVec 2
  /-- The segment registers, by the numbers of R36. -/
  segs : Vector Segment 6
  /-- Physical memory (R37). -/
  mem : Memory
  /-- The parameter `Translate` (R59). -/
  trans : List TransEntry
  /-- The set `IoAddrs` of physical addresses (R65). -/
  io : List Range
  /-- The parameter `PendingEvents` (R200). -/
  pending : List PendingEvent
  /-- The program (R73, R241). -/
  prog : Program
  /-- The configuration (R6), constant over a run. -/
  cfg : Cfg
  /-- The exception delivered and not yet continued (R196, R202). -/
  exc : Option Delivered
  /-- What the environment's `Handle` steps will do, one list per step (R202). -/
  handlers : List (List HandlerEdit)
  /-- The history of read events, one batch per execution, oldest first (R75). -/
  reads : List (List ReadEvent)
  /-- The model's own counter of fault exits, which numbers the draws (assumption log 6). -/
  draws : Nat
  deriving DecidableEq, Repr

/-- What an implementation's repeatable choices are a function of (R140): the record of R41, and the parameters the
other rules leave to the launch. No flag but RF, no MXCSR and no CR0.AM is in it (R31 to R33), and the privilege level
only through `Translate` (R205; assumption log 5). -/
structure ArchState where
  x : Vector Qword 16
  v : Vector VReg 16
  pc : Qword
  rf : Bool
  cr2 : Qword
  env : Env
  mem : Memory
  /-- `Translate` at the current privilege level (R59). -/
  trans : List TransEntry
  /-- `SegBase` and `SegCheck` (R36). -/
  segs : Vector Segment 6
  io : List Range
  pending : List PendingEvent
  prog : Program
  cfg : Cfg
  deriving DecidableEq, Repr

/-- Why the machine stops with a fault. -/
inductive Fault where
  /-- Raised by the step in a state that holds a delivered exception when the environment has no `Handle` step left:
  an `Exception` outcome not continued ends the run unsuccessfully (R196, R241). Safe: nothing is claimed of what
  a handler the model was not given would do. -/
  | unhandledException (vec : Nat)
  deriving DecidableEq, Repr

/-- Why the model gives no meaning. -/
inductive Refusal where
  /-- Raised by `exec` for a constructor without a meaning; none is left. Safe: it stops. -/
  | notModelled (mnemonic : String)
  /-- Raised by a meaning when a byte of an active element lies in `IoAddrs` (R65, R235). Safe: it stops. -/
  | deviceMemory
  /-- Raised by the step and by a meaning in a 16-bit code segment (R101). Safe: it stops. -/
  | codeSegment16
  /-- Raised by the step when the bytes at `pc` are `NotInScope` (R107) or end inside the instruction. Safe: it
  stops. -/
  | notInScope (r : Reject)
  /-- Raised by the step when `pc` is the address just after the program: the run has ended successfully (R241). Safe:
  it stops. -/
  | endOfProgram
  /-- Raised by the step when `pc` lies outside the program's bytes, which the spec's run does not reach (R241). Safe:
  it stops. -/
  | outsideProgram
  /-- Raised by the step when the program's placement reaches the top of the address space (R29). Safe: it stops. -/
  | placementWraps
  deriving DecidableEq, Repr

/-! ## Reset -/

/-- A real-address-mode segment register at reset; the limit and rights are the family's (assumption log 12). -/
def Segment.atReset (base : Qword) : Segment :=
  { base := base, limit := .top 0xFFFF#32, readable := true, null := false }

/-- R42: CR0 = 60000010H, CR4 = 0, XCR0 = 1; EFER and the CS descriptor are the family's (assumption log 12). -/
def Control.atReset : Control :=
  { pe := false, ts := false, am := false, pg := false, osxsave := false, sse := false, avx := false,
    lma := false, csL := false, csD := false }

/-- R42: the flags register is 00000002H, so every flag held is 0. -/
def Flags.atReset : Flags :=
  { cf := false, pf := false, af := false, zf := false, sf := false, of := false, vm := false, ac := false }

/-- RDX at reset: the processor signature (R42 names it without a number); PRESUMED 000306C3H, the family's
(assumption log 12). -/
def processorSignature : Qword := 0x306C3#64

/-- The machine after a hardware reset: the column "after reset" of R42, with nothing loaded. A program comes to run
by a launch (R230, R241; assumption log 13). -/
def State.reset : State :=
  { x := (Vector.replicate 16 0#64).set 2 processorSignature
    v := Vector.replicate 16 { width := Cfg.default.vlmax, bits := 0 }
    pc := 0xFFF0#64
    rf := false
    flags := Flags.atReset
    mxcsr := 0x1F80#32
    cr2 := 0#64
    ctl := Control.atReset
    cpl := 0#2
    segs := (Vector.replicate 6 (Segment.atReset 0#64)).set 1 (Segment.atReset 0xFFFF0000#64)
    mem := []
    trans := []
    io := []
    pending := []
    prog := { base := 0xFFF0#64, bytes := [] }
    cfg := Cfg.default
    exc := none
    handlers := []
    reads := []
    draws := 0 }

end Sys2Proof.Machine

namespace Sys2Proof

/-- FREE VALUE (R140): `CFG.LEFTSET`, which elements to the left of a faulting one an implementation completes, a
function of the instruction and the architectural state, so that equal states complete equal sets (assumption
log 5). -/
opaque Config.leftSet : Form → Gather → Machine.ArchState → (j : Nat) → Bool

end Sys2Proof
end

