-- ==== Sys2Proof/Machine/Flags.lean ====
section
/-! DEFINITION. The flag computations the spec gives: only RF is ever written (10_state R30, R31; 40 R134;
60_exceptions R198). -/

namespace Sys2Proof.Machine

/-- R134: RF is cleared when an instruction completes. -/
def rfAtCompletion : Bool := false

/-- R198: the RF bit of the flags image saved for the handler is 1, for a fault and for an event delivered in
lieu of one. -/
def rfSaved : Bool := true

end Sys2Proof.Machine
end

