-- ==== Sys2Proof/Machine/Ops.lean ====
section
/-! DEFINITION. The named operations over registers, elements, memory and translation, and taking and continuing an
exception (10_state, 20_memory, 60_exceptions). -/

namespace Sys2Proof

/-- The number of a segment register (R36). -/
def Seg.num : Seg → Fin 6
  | .es => 0
  | .cs => 1
  | .ss => 2
  | .ds => 3
  | .fs => 4
  | .gs => 5

/-- A value at a width: bits above its own are 0, bits above the width are dropped. -/
def VReg.fit (w : Nat) (r : VReg) : VReg := { width := w, bits := r.bits.setWidth w }

/-- The vector register of a width whose bits are all 0. -/
def VReg.zero (w : Nat) : VReg := { width := w, bits := 0#w }

end Sys2Proof

namespace Sys2Proof.Machine

/-! ## Mode and enabling state (10_state R33, R34; 30_encoding R101) -/

/-- R33, R101: the mode from CR0.PE, EFLAGS.VM, IA32_EFER.LMA and CS.L, CS.D. Which of them goes first where they
disagree (PE = 0 or VM = 1 together with LMA = 1 and L = 1) is the model's choice: PE, then VM, then LMA with L, then D
(DESIGN CHOICE, assumption log 27). -/
def modeOf (c : Control) (vm : Bool) : Mode :=
  if c.pe = false then .real
  else if vm then .v8086
  else if c.lma && c.csL then .mode64
  else if c.csD then .mode32
  else .code16

/-- The mode the processor is in. -/
def State.mode (s : State) : Mode := modeOf s.ctl s.flags.vm

/-- The record `Env` of R34. -/
def State.env (s : State) : Env :=
  { mode := s.mode
    ts := s.ctl.ts
    osxsave := s.ctl.osxsave
    xcr0SseAvx := s.ctl.sse && s.ctl.avx
    avx2 := s.cfg.avx2 }

/-- `enabled(env)` of R34; it does not look at `ts`. -/
def Env.enabled (e : Env) : Bool := e.osxsave && e.xcr0SseAvx && e.avx2

/-- Control bits of an enabled launch in 64-bit mode (R34, R101, R232), which has paging on (assumption log 13). -/
def Control.launch64 (c : Control) : Control :=
  { c with pe := true, pg := true, ts := false, osxsave := true, sse := true, avx := true, lma := true, csL := true }

/-! ## Registers and elements (R9, R20, R24) -/

/-- A general register (R20). -/
def State.xreg (s : State) (i : Fin 16) : Qword := s.x[i.val]

/-- A vector register (R24). -/
def State.vreg (s : State) (i : Fin 16) : VReg := s.v[i.val]

/-- A write of all `CFG.VLMAX` bits of a vector register (R12, R26). -/
def State.setVreg (s : State) (i : Fin 16) (val : VReg) : State :=
  { s with v := s.v.set i.val (val.fit s.cfg.vlmax) }

/-- A write of a general register, by the environment only (R21, R202). -/
def State.setXreg (s : State) (i : Fin 16) (val : Qword) : State := { s with x := s.x.set i.val val }

/-- Element `j` of 32 bits (R9). -/
def elem32 (r : VReg) (j : Nat) : Dword := r.bits.extractLsb' (32 * j) 32

/-- Element `j` of 64 bits (R9). -/
def elem64 (r : VReg) (j : Nat) : Qword := r.bits.extractLsb' (64 * j) 64

/-- Elements 0 to `n - 1`, as one number with element 0 lowest (R9). -/
def packElems (e : Nat → Dword) : (n : Nat) → Nat
  | 0 => 0
  | n + 1 => packElems e n ||| (e n).toNat <<< (32 * n)

/-- The vector register of a width whose 32-bit elements are given (R9). -/
def ofElems (w : Nat) (e : Nat → Dword) : VReg := { width := w, bits := BitVec.ofNat w (packElems e (w / 32)) }

/-! ## Memory (R37, R53) -/

/-- What the memory holds at a physical address; an unlisted address reads 0 (assumption log 11). -/
def Memory.read : Memory → Nat → Byte
  | [], _ => 0#8
  | (k, b) :: rest, a => if k = a then b else Memory.read rest a

/-- A write of one byte, keeping the canonical form: addresses strictly rising, no entry that reads 0. -/
def Memory.write : Memory → Nat → Byte → Memory
  | [], a, b => if b = 0#8 then [] else [(a, b)]
  | (k, c) :: rest, a, b =>
    if a < k then (if b = 0#8 then (k, c) :: rest else (a, b) :: (k, c) :: rest)
    else if a = k then (if b = 0#8 then rest else (a, b) :: rest)
    else (k, c) :: Memory.write rest a b

/-- The canonical form from a lower bound on: addresses at least `lo`, strictly rising, below 2^64, no zero byte. -/
def Memory.wfFrom : (lo : Nat) → Memory → Bool
  | _, [] => true
  | lo, (k, b) :: rest => decide (lo ≤ k) && decide (k < 2 ^ 64) && b != 0#8 && Memory.wfFrom (k + 1) rest

/-- The canonical form of a memory. -/
def Memory.wf (m : Memory) : Bool := Memory.wfFrom 0 m

/-- R53: the little-endian dword of the bytes at four physical addresses, in increasing address order. -/
def Memory.dword (m : Memory) : List Qword → Dword
  | [a0, a1, a2, a3] => m.read a3.toNat ++ m.read a2.toNat ++ m.read a1.toNat ++ m.read a0.toNat
  | _ => 0#32

/-! ## Addresses and translation (R50, R59, R65) -/

/-- Whether a range holds an address. -/
def Range.contains (r : Range) (a : Qword) : Bool := decide ((a - r.base).toNat < r.len)

/-- The entry applies to this linear address and privilege level. -/
def TransEntry.applies (e : TransEntry) (la : Qword) (cpl : BitVec 2) : Bool :=
  e.range.contains la && (e.cpl == none || e.cpl == some cpl)

/-- `Translate(la, cpl)` of R59 as data: the first entry that applies; the identity where none does
(assumption log 7). -/
def translate : List TransEntry → Qword → BitVec 2 → Translation
  | [], la, _ => .phys la
  | e :: rest, la, cpl =>
    if e.applies la cpl then
      match e.target with
      | .phys p => .phys (p + (la - e.range.base))
      | .fault code => .fault code
    else translate rest la cpl

/-- The entries of one privilege level, freed of the level. -/
def entriesAt (cpl : BitVec 2) (entries : List TransEntry) : List TransEntry :=
  (entries.filter (fun e => e.cpl == none || e.cpl == some cpl)).map (fun e => { e with cpl := none })

/-- R33, R59: the translation in force: none while CR0.PG is 0, which leaves the identity. -/
def State.paging (s : State) : List TransEntry := if s.ctl.pg then s.trans else []

/-- `Translate(la, cpl)` of R59. -/
def State.translateAt (s : State) (cpl : BitVec 2) (la : Qword) : Translation := Machine.translate s.paging la cpl

/-- `Translate` at the state's privilege level. -/
def State.translate (s : State) (la : Qword) : Translation := s.translateAt s.cpl la

/-- R65: the physical address is in `IoAddrs`. -/
def State.isIo (s : State) (pa : Qword) : Bool := s.io.any (fun r => r.contains pa)

/-- `trunc_W` of R60: linear addresses and `pc` have 64 bits in `Mode64` and 32 in `Mode32` (R28, R50); 32 in every other
mode is the model's choice (DESIGN CHOICE, assumption log 29). -/
def wrapLinear (mode : Mode) (a : Qword) : Qword :=
  match mode with
  | .mode64 => a
  | _ => (a.setWidth 32).setWidth 64

/-- R60: the linear addresses of the four bytes at `la`. -/
def State.byteAddrs (s : State) (la : Qword) : List Qword :=
  [wrapLinear s.mode la, wrapLinear s.mode (la + 1#64), wrapLinear s.mode (la + 2#64), wrapLinear s.mode (la + 3#64)]

/-- R60: the bytes of an element that page-fault, each with its address and error code. -/
def State.pageFaults (s : State) (la : Qword) : List (Qword × Dword) :=
  (s.byteAddrs la).filterMap (fun a =>
    match s.translate a with
    | .fault code => some (a, code)
    | .phys _ => none)

/-- R60: the physical addresses of the bytes of an element that translate. -/
def State.physAddrs (s : State) (la : Qword) : List Qword :=
  (s.byteAddrs la).filterMap (fun a =>
    match s.translate a with
    | .phys p => some p
    | .fault _ => none)

/-- `MemRead(la, 4)` of R60. -/
def State.memRead (s : State) (la : Qword) : Load :=
  match s.pageFaults la with
  | f :: rest => .exc (.pf (f :: rest))
  | [] =>
    if (s.physAddrs la).any s.isIo then .device
    else .ok (s.mem.dword (s.physAddrs la)) (s.physAddrs la)

/-- `MemWrite` of R61 into a memory, byte by byte from `la`; a byte whose translation faults is not written
(assumption log 21). R61 names no privilege level for its `Translate`; the writer names one, so that a handler at level 0
can write a supervisor page (DESIGN CHOICE, assumption log 28). Where addresses wrap outside `Mode64` and `Mode32` is
`wrapLinear`'s choice (assumption log 29). Used by the environment only. -/
def State.memWrite (s : State) (cpl : BitVec 2) : List Byte → (la : Qword) → Memory → Memory
  | [], _, m => m
  | b :: rest, la, m =>
    match s.translateAt cpl (wrapLinear s.mode la) with
    | .phys a => s.memWrite cpl rest (la + 1#64) (m.write a.toNat b)
    | .fault _ => s.memWrite cpl rest (la + 1#64) m

/-! ## The program counter (R29) -/

/-- R29: `pc + len`, modulo 2^64 in `Mode64` and 2^32 in `Mode32`; the modulus of the other modes, in which nothing
completes, is that of assumption log 29. -/
def State.nextPc (s : State) (len : Nat) : Qword := wrapLinear s.mode (s.pc + BitVec.ofNat 64 len)

/-- R134: what completion does besides the registers: `pc` moves on and RF is cleared. -/
def State.retire (s : State) (len : Nat) : State := { s with pc := s.nextPc len, rf := rfAtCompletion }

/-- R75: one execution's read events, added to the history. -/
def State.addReads (s : State) (batch : List ReadEvent) : State := { s with reads := s.reads ++ [batch] }

/-- The model's counter of fault exits moves on (assumption log 6). -/
def State.countDraw (s : State) : State := { s with draws := s.draws + 1 }

/-- A write of CR2 (R186). -/
def State.setCr2 (s : State) (la : Qword) : State := { s with cr2 := la }

/-! ## Taking an exception and continuing (R196 to R202) -/

/-- R196 to R199: deliver an exception: the record saves `pc` and the RF image; the rest of the state is the `s'` of
the outcome (assumption log 1). -/
def State.deliver (s : State) (vec : Nat) (errcode : Option Dword) (kind : ExcKind) : State :=
  { s with
    exc := some { vec := vec, errcode := errcode, kind := kind, savedPc := s.pc, savedRf := rfSaved } }

/-- #UD (R180, R181). -/
def State.raiseUd (s : State) : State := s.deliver 6 none .fault

/-- #NM (R180, R183). -/
def State.raiseNm (s : State) : State := s.deliver 7 none .fault

/-- The kind of an event, as the kind of its exception (R200). -/
def EventKind.toExc : EventKind → ExcKind
  | .trap => .trap
  | .interrupt => .interrupt

/-- The hidden part of a segment register (R36). -/
def State.segment (s : State) (sg : Seg) : Segment := s.segs[sg.num.val]

/-- One change the environment makes (R202). -/
def State.applyEdit (s : State) : HandlerEdit → State
  | .setX i val => s.setXreg i val
  | .setV i val => s.setVreg i val
  | .store cpl la bytes => { s with mem := s.memWrite cpl bytes la s.mem }
  | .setTrans t => { s with trans := t }
  | .setControl c => { s with ctl := { c with pe := s.ctl.pe, lma := s.ctl.lma, csL := s.ctl.csL, csD := s.ctl.csD } }
  | .setFlags f => { s with flags := { f with vm := s.flags.vm } }
  | .setMxcsr val => { s with mxcsr := val }
  | .setCr2 val => s.setCr2 val
  | .setSegment sg val => { s with segs := s.segs.set sg.num.val val }
  | .setIo io => { s with io := io }
  | .setPending p => { s with pending := p }

/-- The environment's `Handle` step (R202): its changes, then `pc = saved_pc` and `rf = saved_rf`; nothing is
delivered any more and one list of `handlers` is used up. -/
def State.handle (s : State) (e : Delivered) (edits : List HandlerEdit) (rest : List (List HandlerEdit)) : State :=
  { edits.foldl State.applyEdit s with pc := e.savedPc, rf := e.savedRf, exc := none, handlers := rest }

/-- What an implementation's repeatability is a function of (R140, R41). -/
def State.architectural (s : State) : ArchState :=
  { x := s.x, v := s.v, pc := s.pc, rf := s.rf, cr2 := s.cr2, env := s.env, mem := s.mem,
    trans := entriesAt s.cpl s.paging, segs := s.segs, io := s.io, pending := s.pending, prog := s.prog,
    cfg := s.cfg }

end Sys2Proof.Machine
end

