-- ==== Sys2Proof/Machine/Operands.lean ====
section
/-! DEFINITION. The operands of a gather: form numbers, mask and index elements, element addresses, and the outcome
of each element's load (40_gather_common R120 to R130, 20_memory R58). -/

namespace Sys2Proof

/-! ## Form numbers (R120) -/

/-- The vector length `VL`. -/
def Form.vl : Form → Nat
  | .dps128 => 128
  | .dps256 => 256
  | .qps128 => 128
  | .qps256 => 256

/-- The index width `IW`. -/
def Form.iw : Form → Nat
  | .dps128 => 32
  | .dps256 => 32
  | .qps128 => 64
  | .qps256 => 64

/-- The number `n` of elements gathered, which is `VL / IW`. -/
def Form.n : Form → Nat
  | .dps128 => 4
  | .dps256 => 8
  | .qps128 => 2
  | .qps256 => 4

/-- The number `K` of mask elements the first loop of the pseudocode normalises. -/
def Form.k : Form → Nat
  | .dps128 => 4
  | .dps256 => 8
  | .qps128 => 4
  | .qps256 => 4

end Sys2Proof

namespace Sys2Proof.Machine

/-! ## Mask and index (R123 to R125) -/

/-- R124: element `j` of a mask value is selected: its bit `32j+31`. -/
def maskBit (k0 : VReg) (j : Nat) : Bool := k0.bits.getLsbD (32 * j + 31)

/-- R124: `Active(j)`, `j < n`. -/
def active (f : Form) (g : Gather) (s : State) (j : Nat) : Bool :=
  decide (j < f.n) && maskBit (s.vreg g.mask) j

/-- R123: element `j` of the normalised mask `N`. -/
def normElem (f : Form) (k0 : VReg) (j : Nat) : Dword :=
  if decide (j < f.k) && maskBit k0 j then 0xFFFFFFFF#32 else 0#32

/-- R125: the index of element `j`: a sign-extended dword, or a qword. -/
def indexElem (f : Form) (i0 : VReg) (j : Nat) : Qword :=
  if f.iw = 32 then (elem32 i0 j).signExtend 64 else elem64 i0 j

/-! ## Addresses (R58, R126 to R128) -/

/-- `trunc_A`, zero-extended back to 64 bits (R11, R126). -/
def truncA (a : AddrSize) (q : Qword) : Qword :=
  match a with
  | .a64 => q
  | .a32 => (q.setWidth 32).setWidth 64

/-- The scale factor (R91). -/
def scaleValue : Scale → Qword
  | .x1 => 1#64
  | .x2 => 2#64
  | .x4 => 4#64
  | .x8 => 8#64

/-- R122: `B`, the base register at the address size, or 0. -/
def baseValue (g : Gather) (s : State) : Qword :=
  match g.base with
  | some b => truncA g.asize (s.xreg b)
  | none => 0#64

/-- R126: the effective address of element `j`. -/
def effAddr (f : Form) (g : Gather) (s : State) (j : Nat) : Qword :=
  truncA g.asize (baseValue g s + indexElem f (s.vreg g.index) j * scaleValue g.scale + g.disp)

/-- R58: bits 63 to `LA_BITS - 1` are all zeros or all ones. -/
def canonical (laBits : Nat) (la : Qword) : Bool :=
  la >>> (laBits - 1) == 0#64 || la >>> (laBits - 1) == BitVec.allOnes 64 >>> (laBits - 1)

/-- R58: the four bytes at an offset lie inside the limit (assumption log 8). -/
def Limit.admits (l : Limit) (off : Qword) : Bool :=
  match l with
  | .top highest => decide (off.toNat + 3 ≤ highest.toNat)
  | .offsets accepted => accepted.any (fun r => r.contains off)

/-- R58: `SegCheck(seg, off, 4)`: the selector is not null, the segment is readable, and the four bytes at the offset
lie inside the limit. -/
def segCheck (sg : Segment) (off : Qword) : Bool :=
  !sg.null && sg.readable && sg.limit.admits off

/-- R58, R184, R185: the exception of a failed check: #SS(0) for SS, #GP(0) otherwise. -/
def segExc (seg : Seg) : ElemExc :=
  match seg with
  | .ss => .ss0
  | _ => .gp0

/-- R58: `SegBase` as `Mode64` uses it: only FS and GS have one. -/
def segBase64 (s : State) (seg : Seg) : Qword :=
  match seg with
  | .fs => (s.segment .fs).base
  | .gs => (s.segment .gs).base
  | _ => 0#64

/-- R58: `Lin(seg, ea)`, for an effective address already zero-extended to 64 bits (R128). R58 speaks of `Mode64` and
`Mode32`; the other modes, in which no element is loaded, are computed as `Mode32` (assumption log 29). -/
def lin (s : State) (seg : Seg) (ea : Qword) : Except ElemExc Qword :=
  match s.mode with
  | .mode64 =>
    let la := segBase64 s seg + ea
    if canonical s.cfg.laBits la && canonical s.cfg.laBits (la + 1#64) && canonical s.cfg.laBits (la + 2#64)
        && canonical s.cfg.laBits (la + 3#64) then .ok la
    else .error (segExc seg)
  | _ =>
    let off := (ea.setWidth 32).setWidth 64
    if segCheck (s.segment seg) off then .ok (wrapLinear .mode32 ((s.segment seg).base + ea))
    else .error (segExc seg)

/-! ## Element loads (R67, R130) -/

/-- R130: the outcome of element `j`; an inactive element is not accessed (R67). -/
def elemLoad (f : Form) (g : Gather) (s : State) (j : Nat) : Load :=
  if active f g s j then
    match lin s g.seg (effAddr f g s j) with
    | .error e => .exc e
    | .ok la => s.memRead la
  else .idle

/-- The linear addresses of the bytes of element `j`, where it has any. -/
def elemLinear (f : Form) (g : Gather) (s : State) (j : Nat) : List Qword :=
  match lin s g.seg (effAddr f g s j) with
  | .error _ => []
  | .ok la => s.byteAddrs la

end Sys2Proof.Machine
end

