-- ==== Sys2Proof/Machine/Gather.lean ====
section
/-! DEFINITION. The algorithm the four forms share (40_gather_common R121): checks, completion (R131 to R135) and
fault exit (R136 to R144), with pending events (60_exceptions R200). -/

namespace Sys2Proof.Machine

/-! ## Element outcomes put together -/

/-- The value an element received, 0 where it received none. -/
def Load.value : Load → Dword
  | .ok val _ => val
  | .idle => 0#32
  | .exc _ => 0#32
  | .device => 0#32

/-- The element was loaded. -/
def Load.isOk : Load → Bool
  | .ok _ _ => true
  | .idle => false
  | .exc _ => false
  | .device => false

/-- R65: some active element touches `IoAddrs`. -/
def touchesDevice (f : Form) (g : Gather) (s : State) : Bool :=
  (List.range f.n).any (fun j => elemLoad f g s j == .device)

/-- R137: the lowest-numbered element whose load faults, from the elements listed. -/
def firstExc (f : Form) (g : Gather) (s : State) : List Nat → Option (Nat × ElemExc)
  | [] => none
  | j :: rest =>
    match elemLoad f g s j with
    | .exc e => some (j, e)
    | .idle => firstExc f g s rest
    | .ok _ _ => firstExc f g s rest
    | .device => firstExc f g s rest

/-- R136, R137: the faulting element and its exception. -/
def faulting (f : Form) (g : Gather) (s : State) : Option (Nat × ElemExc) :=
  firstExc f g s (List.range f.n)

/-- R75: the read events of the elements `done` says are completed. -/
def readBatch (f : Form) (g : Gather) (s : State) (done : Nat → Bool) : List ReadEvent :=
  (List.range f.n).filterMap (fun j =>
    match elemLoad f g s j with
    | .ok val phys => if done j then some { elem := j, phys := phys, val := val } else none
    | .idle => none
    | .exc _ => none
    | .device => none)

/-! ## Completion (R131 to R134) -/

/-- R131, R133: element `j` of the destination at completion. -/
def destAtCompletion (f : Form) (g : Gather) (s : State) (j : Nat) : Dword :=
  if j < f.n then
    (if active f g s j then (elemLoad f g s j).value else elem32 (s.vreg g.dest) j)
  else 0#32

/-- R131 to R134: the state after a gather that completes. -/
def complete (f : Form) (g : Gather) (s : State) : State :=
  (((s.setVreg g.dest (ofElems s.cfg.vlmax (destAtCompletion f g s))).setVreg g.mask (VReg.zero s.cfg.vlmax)).addReads
    (readBatch f g s (fun _ => true))).retire g.len

/-! ## Fault exit (R136 to R144) -/

/-- What the spec leaves open at a fault exit: the completed elements to the left (R140), the draws `zD`, `zM`
(R143), which mask elements keep their old value (R142), and which faulting byte is reported (R193). -/
structure Draws where
  left : Nat → Bool
  zeroDest : Bool
  zeroMask : Bool
  keep : Nat → Bool
  pick : Nat

/-- The free values of this fault exit. -/
def drawsOf (f : Form) (g : Gather) (s : State) : Draws :=
  { left := Config.leftSet f g s.architectural
    zeroDest := Config.zeroDest s.draws
    zeroMask := Config.zeroMask s.draws
    keep := Config.keepMask s.draws
    pick := Config.pickByte s.draws }

/-- R138, R140, R141: element `j` is in `C = Right ∪ Left`, where `ef` is the faulting element. -/
def completed (d : Draws) (f : Form) (g : Gather) (s : State) (ef j : Nat) : Bool :=
  (elemLoad f g s j).isOk && (decide (j < ef) || (decide (ef < j) && d.left j))

/-- R141, R143: element `j` of the destination at a fault exit. -/
def destAtFault (d : Draws) (f : Form) (g : Gather) (s : State) (ef j : Nat) : Dword :=
  if j < f.n then
    (if completed d f g s ef j then (elemLoad f g s j).value else elem32 (s.vreg g.dest) j)
  else if d.zeroDest then 0#32
  else elem32 (s.vreg g.dest) j

/-- R143: element `j` of `Nf`, what the pseudocode leaves in the mask's tail at the time of the fault. -/
def tailAtFault (f : Form) (k0 : VReg) (j : Nat) : Dword :=
  if j < f.k then normElem f k0 j
  else if f.vl = 128 then 0#32
  else elem32 k0 j

/-- R142, R143: element `j` of the mask at a fault exit. -/
def maskAtFault (d : Draws) (f : Form) (g : Gather) (s : State) (ef j : Nat) : Dword :=
  let k0 := s.vreg g.mask
  if j < f.n then
    (if completed d f g s ef j then 0#32
     else if s.cfg.maskNorm = .any ∧ d.keep j = true then elem32 k0 j
     else normElem f k0 j)
  else if d.zeroMask then 0#32
  else if s.cfg.maskNorm = .any ∧ d.keep j = true then elem32 k0 j
  else tailAtFault f k0 j

/-- R141 to R143: the registers a fault exit leaves, the read history (R75) and the draw counter. -/
def partialUpdate (d : Draws) (f : Form) (g : Gather) (s : State) (ef : Nat) : State :=
  (((s.setVreg g.dest (ofElems s.cfg.vlmax (destAtFault d f g s ef))).setVreg g.mask
    (ofElems s.cfg.vlmax (maskAtFault d f g s ef))).addReads (readBatch f g s (completed d f g s ef))).countDraw

/-- R200: the elements of `C`. -/
def completedSet (d : Draws) (f : Form) (g : Gather) (s : State) (ef : Nat) : List Nat :=
  (List.range f.n).filter (completed d f g s ef)

/-- R200: the event reports for these completed elements: it watches nothing in particular, or one of their bytes. -/
def PendingEvent.fires (f : Form) (g : Gather) (s : State) (done : List Nat) (ev : PendingEvent) : Bool :=
  match ev.watch with
  | none => true
  | some r => done.any (fun j => (elemLinear f g s j).any r.contains)

/-- R200: `PendingEvents(g, s, C)`, consulted only for a non-empty `C`. -/
def pendingFor (f : Form) (g : Gather) (s : State) (done : List Nat) : Option PendingEvent :=
  if done.isEmpty then none else s.pending.find? (PendingEvent.fires f g s done)

/-- R193: the reported byte of a page fault, a draw among the faulting bytes. -/
def pickFault (pick : Nat) (faults : List (Qword × Dword)) : Qword × Dword :=
  faults.getD (pick % faults.length) (0#64, 0#32)

/-- R180, R184 to R186: deliver the exception of the faulting element. -/
def deliverElem (d : Draws) (s : State) (e : ElemExc) : State :=
  match e with
  | .gp0 => s.deliver 13 (some 0#32) .fault
  | .ss0 => s.deliver 12 (some 0#32) .fault
  | .pf faults => (s.setCr2 (pickFault d.pick faults).1).deliver 14 (some (pickFault d.pick faults).2) .fault

/-- R137 to R144, R200: the fault exit with faulting element `ef` and its exception. -/
def faultExitWith (d : Draws) (f : Form) (g : Gather) (s : State) (ef : Nat) (e : ElemExc) : State :=
  match pendingFor f g s (completedSet d f g s ef) with
  | some ev => (partialUpdate d f g s ef).deliver ev.vec none ev.kind.toExc
  | none => deliverElem d (partialUpdate d f g s ef) e

/-- The fault exit under the free values. -/
def faultExit (f : Form) (g : Gather) (s : State) (ef : Nat) (e : ElemExc) : State :=
  faultExitWith (drawsOf f g s) f g s ef e

/-! ## One execution (R121) -/

/-- R121 step 1: a cause of #UD (R181, R182) the operands and the state show: a mode that does not execute, the
enabling state, overlapping registers. -/
def udCause (g : Gather) (s : State) : Bool :=
  !s.mode.executes || !s.env.enabled || g.overlaps

/-- R121: one execution of a decoded gather. -/
def gather (f : Form) (g : Gather) (s : State) : Host.Outcome State Fault Refusal :=
  if s.mode = .code16 then .refused .codeSegment16
  else if udCause g s then .next s.raiseUd
  else if s.env.ts then .next s.raiseNm
  else if touchesDevice f g s then .refused .deviceMemory
  else
    match faulting f g s with
    | some (ef, e) => .next (faultExit f g s ef e)
    | none => .next (complete f g s)

end Sys2Proof.Machine
end

