-- ==== Sys2Proof/Machine/Vgatherdps.lean ====
section
/-! DEFINITION. VGATHERDPS (41_vgatherdps). -/

namespace Sys2Proof.Machine

/-- `VGATHERDPS xmm1, vm32x, xmm2` (R160). -/
def execVgatherdps128 (g : Gather) (s : State) : Host.Outcome State Fault Refusal := gather .dps128 g s

/-- `VGATHERDPS ymm1, vm32y, ymm2` (R161). -/
def execVgatherdps256 (g : Gather) (s : State) : Host.Outcome State Fault Refusal := gather .dps256 g s

end Sys2Proof.Machine
end

