-- ==== Sys2Proof/Machine/Vgatherqps.lean ====
section
/-! DEFINITION. VGATHERQPS (42_vgatherqps). -/

namespace Sys2Proof.Machine

/-- `VGATHERQPS xmm1, vm64x, xmm2` (R170). -/
def execVgatherqps128 (g : Gather) (s : State) : Host.Outcome State Fault Refusal := gather .qps128 g s

/-- `VGATHERQPS xmm1, vm64y, xmm2` (R171). -/
def execVgatherqps256 (g : Gather) (s : State) : Host.Outcome State Fault Refusal := gather .qps256 g s

end Sys2Proof.Machine
end

