-- ==== Sys2Proof/Machine/Dispatch.lean ====
section
/-! DEFINITION. The dispatch of an instruction to its meaning. -/

namespace Sys2Proof.Machine

/-- What an instruction does in a state: one arm per row of the opcode table. -/
def exec (i : Instr) (s : State) : Host.Outcome State Fault Refusal :=
  match i with
  | .vgatherdps128 g => Sys2Proof.Machine.execVgatherdps128 g s
  | .vgatherqps128 g => Sys2Proof.Machine.execVgatherqps128 g s
  | .vgatherdps256 g => Sys2Proof.Machine.execVgatherdps256 g s
  | .vgatherqps256 g => Sys2Proof.Machine.execVgatherqps256 g s

end Sys2Proof.Machine
end

