-- ==== Sys2Proof/Machine/Fetch.lean ====
section
/-! DEFINITION. Fetching the instruction's bytes: the program is a fixed parameter of the run (20_memory R73,
60_exceptions R189, 70 R241). -/

namespace Sys2Proof.Machine

/-- R29: the size of the address space of `pc`: 2^64 in `Mode64`, 2^32 in `Mode32`. R28 and R29 give it for these two modes
only; that it is 2^32 in the other modes is the model's choice (DESIGN CHOICE, assumption log 29). -/
def pcSpace (mode : Mode) : Nat :=
  match mode with
  | .mode64 => 2 ^ 64
  | _ => 2 ^ 32

/-- The address just after the last instruction (R241). -/
def Program.endAddr (p : Program) : Qword := p.base + BitVec.ofNat 64 p.bytes.length

/-- R29: the program's placement reaches the top of the address space, which outside `Mode64` and `Mode32` is the model's
2^32 (assumption logs 14 and 29). -/
def Program.wraps (p : Program) (mode : Mode) : Bool :=
  decide (pcSpace mode ≤ p.base.toNat + p.bytes.length)

/-- The bytes from `pc` on, or why there are none to run. The placement is tested before any byte is read, so in
real-address and virtual-8086 mode its refusal goes before the #UD of R101 (DESIGN CHOICE, assumption log 29). -/
def State.fetch (s : State) : Except Refusal (List Byte) :=
  if s.prog.wraps s.mode then .error .placementWraps
  else if s.pc = s.prog.endAddr then .error .endOfProgram
  else if s.prog.base.toNat ≤ s.pc.toNat ∧ s.pc.toNat < s.prog.base.toNat + s.prog.bytes.length then
    .ok (s.prog.bytes.drop (s.pc.toNat - s.prog.base.toNat))
  else .error .outsideProgram

/-- The instruction at `pc`, as the decoder reads it (R109). -/
def State.decodeAt (s : State) (bytes : List Byte) : Decoded := decode s.mode s.env.enabled s.cfg.vvvv3 bytes

/-- A launch of a one-instruction program at `pc`, in 64-bit mode and enabled (R231, R232; assumption log 13). -/
def State.launch (s : State) (bytes : List Byte) : State :=
  { s with
    prog := { base := s.pc, bytes := bytes }
    ctl := s.ctl.launch64
    flags := { s.flags with vm := false }
    cfg := { s.cfg with avx2 := true }
    exc := none }

end Sys2Proof.Machine
end

