-- ==== Sys2Proof/Machine/Step.lean ====
section
/-! DEFINITION. One step: the environment's continuation of a delivered exception, or one instruction. -/

namespace Sys2Proof.Machine

/-- One step of the machine. With an exception delivered, the environment's next `Handle` (R202), or the end of the
run (R196, R241). Otherwise the instruction at `pc`: its meaning, #UD for an illegal form (R181, R182), a refusal for
what is not in scope (R107). -/
def step (s : State) : Host.Outcome State Fault Refusal :=
  match s.exc with
  | some e =>
    match s.handlers with
    | edits :: rest => .next (s.handle e edits rest)
    | [] => .fault (.unhandledException e.vec)
  | none =>
    match s.fetch with
    | .error r => .refused r
    | .ok bytes =>
      match s.decodeAt bytes with
      | .ok i => exec i s
      | .ud => .next s.raiseUd
      | .reject .codeSegment16 => .refused .codeSegment16
      | .reject r => .refused (.notInScope r)

/-- `s` with an opcode-table word launched as its next instruction (assumption log 13). -/
def State.withFetchWord (s : State) (nbits w : Nat) : State := s.launch (tableBytes nbits w)

end Sys2Proof.Machine
end

