-- ==== Sys2Proof/Safety.lean ====
section
/-! DEFINITION. The premises claims take (70_reset_and_hazards R231), what a successful run is (R241), and the
invariant every step keeps. -/

namespace Sys2Proof.Machine

/-- An enabled launch (R34, R231): `enabled(env)` and CR0.TS = 0. -/
def State.enabledLaunch (s : State) : Bool := s.env.enabled && !s.env.ts

/-- The processor runs the gather: a mode that executes it (R101), an enabled launch, three distinct vector
registers (R102). -/
abbrev State.ready (s : State) (g : Gather) : Prop :=
  s.mode.executes = true ∧ s.enabledLaunch = true ∧ g.overlaps = false

/-- Every active element loads: no exception and no device memory (R131's premise, `no_io` of R231). -/
abbrev State.loadable (s : State) (f : Form) (g : Gather) : Prop :=
  ∀ j, j < f.n → active f g s j = true → (elemLoad f g s j).isOk = true

/-- `no_io` of R231 for one gather: no active element touches `IoAddrs`. -/
abbrev State.noDevice (s : State) (f : Form) (g : Gather) : Prop := touchesDevice f g s = false

/-- `no_pending` of R231. -/
abbrev State.noPending (s : State) : Prop := s.pending = []

/-- The legacy bytes R83 admits: at most one 67H and at most one segment override, in either order. -/
def admittedLegacy : List Byte → Bool
  | [] => true
  | [a] => a == 0x67#8 || (segOfByte a).isSome
  | [a, b] => (a == 0x67#8 && (segOfByte b).isSome) || ((segOfByte a).isSome && b == 0x67#8)
  | _ => false

/-- R83: a byte that is #UD before one of the four encodings: LOCK, 66H, F2H, F3H, and REX in `Mode64`. -/
abbrev forbiddenByte (mode : Mode) (b : Byte) : Prop :=
  b = 0xF0#8 ∨ b = 0x66#8 ∨ b = 0xF2#8 ∨ b = 0xF3#8 ∨ (mode = .mode64 ∧ 0x40 ≤ b.toNat ∧ b.toNat ≤ 0x4F)

/-- The fixed bits from the VEX escape to the opcode are those of one of the four encodings (R109, R110). -/
def headBits (v1 v2 op : Byte) : Bool :=
  v1.extractLsb' 0 5 == 2#5 && v2.extractLsb' 0 2 == 1#2 && (op == 0x92#8 || op == 0x93#8)
    && v2.extractLsb' 7 1 == 0#1

/-- The bytes from the VEX escape to the opcode are one of the four encodings in a mode that executes them. -/
def headOk (mode : Mode) (v1 v2 op : Byte) : Bool :=
  (mode == .mode64 || (mode == .mode32 && v1.extractLsb' 6 2 == 3#2)) && headBits v1 v2 op

/-- R140: the set `C` of a fault exit at element `ef`: the loaded elements to its right, and those to its left that
`CFG.LEFTSET` takes. -/
def gathered (f : Form) (g : Gather) (s : State) (ef j : Nat) : Bool :=
  (elemLoad f g s j).isOk && (decide (j < ef) || (decide (ef < j) && Config.leftSet f g s.architectural j))

/-- R200: at a fault exit at element `ef` the event is to be reported: some element is completed, and the event watches
nothing in particular or one of the linear bytes of a completed element (assumption log 10). -/
def reports (f : Form) (g : Gather) (s : State) (ef : Nat) (ev : PendingEvent) : Prop :=
  ∃ j, j < f.n ∧ gathered f g s ef j = true
    ∧ (ev.watch = none
      ∨ ∃ r la b, ev.watch = some r ∧ lin s g.seg (effAddr f g s j) = .ok la ∧ b < 4
          ∧ (wrapLinear s.mode (la + BitVec.ofNat 64 b) - r.base).toNat < r.len)

/-- Every element that loads in `s` loads the same value in `w`. -/
def loadsAgree (f : Form) (g : Gather) (s w : State) : Prop :=
  ∀ j val phys, elemLoad f g s j = .ok val phys → ∃ phys', elemLoad f g w j = .ok val phys'

/-- The three vector registers of a gather hold the same in two states of one configuration (R6). -/
def sameOperands (g : Gather) (s w : State) : Prop :=
  s.vreg g.dest = w.vreg g.dest ∧ s.vreg g.index = w.vreg g.index ∧ s.vreg g.mask = w.vreg g.mask ∧ s.cfg = w.cfg

/-- R145: a gather continued any number of times. From `s`, each state of the list is one the environment leaves after
the fault exit of the state before it, with the gather's vector registers as that exit left them; whatever loads on the
way loads as in `w`; and in the last state every active element loads. -/
def continued (i : Instr) (w : State) : State → List State → Prop
  | s, [] => s.ready i.gather ∧ s.loadable i.form i.gather ∧ loadsAgree i.form i.gather s w
  | s, c :: rest =>
    s.ready i.gather ∧ s.noDevice i.form i.gather ∧ loadsAgree i.form i.gather s w
      ∧ (∃ t ef e, faulting i.form i.gather s = some (ef, e) ∧ exec i s = .next t ∧ sameOperands i.gather c t)
      ∧ continued i w c rest

/-- A fault exit from `s` completes some element, "makes progress" in R145's words. -/
def progresses (f : Form) (g : Gather) (s : State) : Bool :=
  match faulting f g s with
  | some (ef, _) => (List.range f.n).any (gathered f g s ef)
  | none => false

/-- A run has ended successfully (R241): nothing delivered, and `pc` just after the program. -/
abbrev State.succeeded (s : State) : Prop := s.exc = none ∧ s.pc = s.prog.endAddr

/-- The rows of R180's table for a delivered record: a fault has one of the five vectors with its error code; a
pending event has none (R200). -/
def Delivered.legal (e : Delivered) : Bool :=
  match e.kind with
  | .fault =>
    ((e.vec == 6 || e.vec == 7) && e.errcode == none)
      || ((e.vec == 12 || e.vec == 13) && e.errcode == some 0#32)
      || (e.vec == 14 && e.errcode.isSome)
  | .trap => e.errcode == none
  | .interrupt => e.errcode == none

/-- What holds of the delivered exception, if there is one: a legal record, whose saved `pc` is the gather's own
(R197) and whose saved RF is set (R198). -/
def State.excOk (s : State) : Bool :=
  match s.exc with
  | none => true
  | some e => e.legal && e.savedPc == s.pc && e.savedRf

/-- The invariant: memory in canonical form, `pc` zero-extended outside `Mode64` (R28 for `Mode32`; assumption log 29 for
the other modes), a sound exception record, and every vector register `CFG.VLMAX` bits wide (R24). -/
abbrev State.Inv (s : State) : Prop :=
  s.mem.wf = true ∧ (s.mode ≠ .mode64 → s.pc.toNat < 2 ^ 32) ∧ s.excOk = true
    ∧ ∀ k, (s.vreg k).width = s.cfg.vlmax

end Sys2Proof.Machine
end

