-- ==== Sys2Proof/Certificates/Slice0/Obligations.lean ====
section
/-! DEFINITION. The statements for the provers. Each docstring names the rule of spec/ it formalises. -/

open Sys2Proof Sys2Proof.Machine

/-! ## Encoding -/

/-- R84 to R100, R109: decoding the bytes of a well-formed instruction, whatever follows them, gives the instruction
back, with every operand at every value the encoding admits, in both modes. The choice among several encodings of one
record is the model's (assumption log 26). -/
def Obligations.DecodeOfEncodeGivesInstruction : Prop :=
  ∀ (mode : Mode) (cfg : Vvvv3) (i : Instr) (rest : List Byte),
    i.wf mode = true → decode mode true cfg (encode mode i ++ rest) = .ok i

/-- R110: the bytes of a well-formed instruction are at most two legacy prefixes and then bytes that match the
opcode table's row of its form under the row's mask, with `mod` not 11b. -/
def Obligations.EncodedBytesMatchTheOpcodeTable : Prop :=
  ∀ (mode : Mode) (i : Instr), i.wf mode = true →
    ∃ (legacy rest : List Byte) (v1 v2 op m : Byte),
      encode mode i = legacy ++ [0xC4#8, v1, v2, op, m] ++ rest ∧ legacy.length ≤ 2
        ∧ (∀ b ∈ legacy, b = 0x67#8 ∨ (segOfByte b).isSome = true)
        ∧ v1 &&& 0x1F#8 = 0x02#8
        ∧ v2 &&& 0x87#8 = (match i.form with
            | .dps128 => 0x01#8 | .dps256 => 0x05#8 | .qps128 => 0x01#8 | .qps256 => 0x05#8)
        ∧ op = (match i.form with
            | .dps128 => 0x92#8 | .dps256 => 0x92#8 | .qps128 => 0x93#8 | .qps256 => 0x93#8)
        ∧ m &&& 0x07#8 = 0x04#8 ∧ m &&& 0xC0#8 ≠ 0xC0#8

/-- R109: what the decoder accepts, with three distinct vector registers, is a well-formed instruction of the
mode. -/
def Obligations.DecodedInstructionIsWellFormed : Prop :=
  ∀ (mode : Mode) (enabled : Bool) (cfg : Vvvv3) (bytes : List Byte) (i : Instr),
    decode mode enabled cfg bytes = .ok i → i.gather.overlaps = false → i.wf mode = true

/-- R81: a decoded instruction is 6 to 12 bytes long, and no longer than the bytes it was read from. -/
def Obligations.DecodedLengthIsSixToTwelve : Prop :=
  ∀ (mode : Mode) (enabled : Bool) (cfg : Vvvv3) (bytes : List Byte) (i : Instr),
    decode mode enabled cfg bytes = .ok i → 6 ≤ i.gather.len ∧ i.gather.len ≤ 12 ∧ i.gather.len ≤ bytes.length

/-- R86, R92: outside `Mode64` the decoder names only registers 0 to 7 and the 32-bit address size. -/
def Obligations.Mode32NamesLowRegistersOnly : Prop :=
  ∀ (enabled : Bool) (cfg : Vvvv3) (bytes : List Byte) (i : Instr),
    decode .mode32 enabled cfg bytes = .ok i →
      i.gather.dest < 8 ∧ i.gather.index < 8 ∧ i.gather.mask < 8
        ∧ (∀ b, i.gather.base = some b → b < 8) ∧ i.gather.asize = .a32

/-- Words E1 to E12 of 95_test_vectors, written out from R84 to R100, with the strings that read otherwise in `Mode32`
(R86, R105) and every segment override (R83, R99): no base register, the SS default, 67H in `Mode64`. -/
def Obligations.WorkedEncodingsDecode : Prop :=
  (∀ w ∈ [
      ([0xC4#8, 0xE2#8, 0x69#8, 0x92#8, 0x04#8, 0x88#8],
        Instr.vgatherdps128 ⟨0, 1, 2, some 0, .x4, 0#64, .ds, .a64, 6⟩),
      ([0xC4#8, 0xE2#8, 0x6D#8, 0x92#8, 0x04#8, 0x8F#8],
        .vgatherdps256 ⟨0, 1, 2, some 7, .x4, 0#64, .ds, .a64, 6⟩),
      ([0xC4#8, 0xE2#8, 0x55#8, 0x93#8, 0x5C#8, 0x23#8, 0x10#8],
        .vgatherqps256 ⟨3, 4, 5, some 3, .x1, 0x10#64, .ds, .a64, 7⟩),
      ([0xC4#8, 0x02#8, 0x21#8, 0x93#8, 0x4C#8, 0xD4#8, 0xFC#8],
        .vgatherqps128 ⟨9, 10, 11, some 12, .x8, 0xFFFFFFFFFFFFFFFC#64, .ds, .a64, 7⟩),
      ([0xC4#8, 0xE2#8, 0x61#8, 0x92#8, 0x0C#8, 0x55#8, 0x40#8, 0x23#8, 0x01#8, 0x00#8],
        .vgatherdps128 ⟨1, 2, 3, none, .x2, 0x12340#64, .ds, .a64, 10⟩),
      ([0xC4#8, 0xE2#8, 0x3D#8, 0x92#8, 0x74#8, 0x3D#8, 0x00#8],
        .vgatherdps256 ⟨6, 7, 8, some 5, .x1, 0#64, .ss, .a64, 7⟩),
      ([0xC4#8, 0x02#8, 0x15#8, 0x93#8, 0xBC#8, 0x75#8, 0x78#8, 0x56#8, 0x34#8, 0x12#8],
        .vgatherqps256 ⟨15, 14, 13, some 13, .x2, 0x12345678#64, .ds, .a64, 10⟩)]
      ++ [
      ([0x67#8, 0xC4#8, 0xE2#8, 0x69#8, 0x92#8, 0x44#8, 0x8B#8, 0x20#8],
        .vgatherdps128 ⟨0, 1, 2, some 3, .x4, 0x20#64, .ds, .a32, 8⟩),
      ([0x65#8, 0xC4#8, 0xE2#8, 0x49#8, 0x92#8, 0x24#8, 0x29#8],
        .vgatherdps128 ⟨4, 5, 6, some 1, .x1, 0#64, .gs, .a64, 7⟩),
      ([0xC4#8, 0xE2#8, 0x69#8, 0x92#8, 0x44#8, 0xE4#8, 0x08#8],
        .vgatherdps128 ⟨0, 4, 2, some 4, .x8, 8#64, .ss, .a64, 7⟩),
      ([0xC4#8, 0x62#8, 0x69#8, 0x92#8, 0x0C#8, 0x88#8],
        .vgatherdps128 ⟨9, 1, 2, some 0, .x4, 0#64, .ds, .a64, 6⟩),
      ([0x3E#8, 0x67#8, 0xC4#8, 0xE2#8, 0x69#8, 0x92#8, 0x04#8, 0x88#8],
        .vgatherdps128 ⟨0, 1, 2, some 0, .x4, 0#64, .ds, .a32, 8⟩),
      ([0xC4#8, 0xE2#8, 0x29#8, 0x92#8, 0x04#8, 0x88#8],
        .vgatherdps128 ⟨0, 1, 10, some 0, .x4, 0#64, .ds, .a64, 6⟩)],
      decode .mode64 true .ignored w.1 = .ok w.2)
    ∧ (∀ w ∈ [
      ([0xC4#8, 0xE2#8, 0x69#8, 0x92#8, 0x04#8, 0x88#8],
        Instr.vgatherdps128 ⟨0, 1, 2, some 0, .x4, 0#64, .ds, .a32, 6⟩),
      ([0xC4#8, 0xE2#8, 0x6D#8, 0x92#8, 0x04#8, 0x8F#8],
        .vgatherdps256 ⟨0, 1, 2, some 7, .x4, 0#64, .ds, .a32, 6⟩),
      ([0xC4#8, 0xE2#8, 0x55#8, 0x93#8, 0x5C#8, 0x23#8, 0x10#8],
        .vgatherqps256 ⟨3, 4, 5, some 3, .x1, 0x10#64, .ds, .a32, 7⟩),
      ([0xC4#8, 0xE2#8, 0x61#8, 0x92#8, 0x0C#8, 0x55#8, 0x40#8, 0x23#8, 0x01#8, 0x00#8],
        .vgatherdps128 ⟨1, 2, 3, none, .x2, 0x12340#64, .ds, .a32, 10⟩),
      ([0xC4#8, 0xE2#8, 0x3D#8, 0x92#8, 0x74#8, 0x3D#8, 0x00#8],
        .vgatherdps256 ⟨6, 7, 0, some 5, .x1, 0#64, .ss, .a32, 7⟩),
      ([0x65#8, 0xC4#8, 0xE2#8, 0x49#8, 0x92#8, 0x24#8, 0x29#8],
        .vgatherdps128 ⟨4, 5, 6, some 1, .x1, 0#64, .gs, .a32, 7⟩),
      ([0xC4#8, 0xE2#8, 0x69#8, 0x92#8, 0x44#8, 0xE4#8, 0x08#8],
        .vgatherdps128 ⟨0, 4, 2, some 4, .x8, 8#64, .ss, .a32, 7⟩),
      ([0xC4#8, 0xE2#8, 0x29#8, 0x92#8, 0x04#8, 0x88#8],
        .vgatherdps128 ⟨0, 1, 2, some 0, .x4, 0#64, .ds, .a32, 6⟩)],
      decode .mode32 true .ignored w.1 = .ok w.2)
    ∧ (∀ w ∈ [(0x26#8, Seg.es, Seg.ds, Seg.ss), (0x2E#8, .cs, .ds, .ss), (0x36#8, .ss, .ds, .ss),
          (0x3E#8, .ds, .ds, .ss), (0x64#8, .fs, .fs, .fs), (0x65#8, .gs, .gs, .gs)],
        decode .mode32 true .ignored [w.1, 0xC4#8, 0xE2#8, 0x3D#8, 0x92#8, 0x74#8, 0x3D#8, 0x00#8]
            = .ok (.vgatherdps256 ⟨6, 7, 0, some 5, .x1, 0#64, w.2.1, .a32, 8⟩)
        ∧ decode .mode64 true .ignored [w.1, 0xC4#8, 0xE2#8, 0x69#8, 0x92#8, 0x04#8, 0x88#8]
            = .ok (.vgatherdps128 ⟨0, 1, 2, some 0, .x4, 0#64, w.2.2.1, .a64, 7⟩)
        ∧ decode .mode64 true .ignored [w.1, 0xC4#8, 0xE2#8, 0x3D#8, 0x92#8, 0x74#8, 0x3D#8, 0x00#8]
            = .ok (.vgatherdps256 ⟨6, 7, 8, some 5, .x1, 0#64, w.2.2.2, .a64, 8⟩))
    ∧ decode .mode32 true .ud [0xC4#8, 0xE2#8, 0x3D#8, 0x92#8, 0x74#8, 0x3D#8, 0x00#8] = .ud
    ∧ decode .mode32 true .ignored [0x67#8, 0xC4#8, 0xE2#8, 0x69#8, 0x92#8, 0x44#8, 0x8B#8, 0x20#8] = .ud
    ∧ decode .mode32 true .ignored [0xC4#8, 0x02#8, 0x21#8, 0x93#8, 0x4C#8, 0xD4#8, 0xFC#8] = .reject .notVexOutside64

/-- R107, R109, R83, R84, R86: what is not one of the four encodings is refused, never #UD and never run. First: after any
admitted legacy bytes, with or without a forbidden byte, the VEX escape with another map, implied prefix, opcode, with
`W = 1`, or, outside `Mode64`, with bits 7:6 of V1 not 11b. Second: a second 67H or a second segment override. Third: a
byte other than C4H where the escape should stand, C5H of the two-byte form among them. That the real-address and
virtual-8086 modes read the bytes as `Mode32` does is the model's reading (assumption log 17). -/
def Obligations.NeighbouringEncodingsAreRefused : Prop :=
  ∀ (s : State) (legacy : List Byte), s.exc = none → admittedLegacy legacy = true →
    (∀ (prior rest : List Byte) (v1 v2 op : Byte),
        (prior = [] ∨ ∃ b, prior = [b] ∧ forbiddenByte s.mode b) →
        s.fetch = .ok (legacy ++ prior ++ 0xC4#8 :: v1 :: v2 :: op :: rest) →
        (v1.extractLsb' 0 5 ≠ 2#5 ∨ v2.extractLsb' 0 2 ≠ 1#2 ∨ (op ≠ 0x92#8 ∧ op ≠ 0x93#8)
          ∨ v2.extractLsb' 7 1 = 1#1 ∨ (s.mode ≠ .mode64 ∧ v1.extractLsb' 6 2 ≠ 3#2)) →
        ∃ r, step s = .refused r)
    ∧ (∀ (b : Byte) (rest : List Byte), s.fetch = .ok (legacy ++ b :: rest) →
        ((b = 0x67#8 ∧ 0x67#8 ∈ legacy)
          ∨ ((segOfByte b).isSome = true ∧ ∃ b' ∈ legacy, (segOfByte b').isSome = true)) →
        ∃ r, step s = .refused r)
    ∧ (∀ (prior : List Byte) (b : Byte) (rest : List Byte),
        s.fetch = .ok (legacy ++ prior ++ b :: rest) → b ≠ 0xC4#8 →
        ((prior = [] ∧ b ≠ 0x67#8 ∧ segOfByte b = none ∧ ¬ forbiddenByte s.mode b)
          ∨ ∃ b', prior = [b'] ∧ forbiddenByte s.mode b') →
        ∃ r, step s = .refused r)

/-! ## The step -/

/-- When the bytes at `pc` decode to an instruction, the step is the instruction's meaning; the meaning itself moves
`pc` on. -/
def Obligations.StepRunsTheDecodedInstruction : Prop :=
  ∀ (s : State) (bytes : List Byte) (i : Instr),
    s.exc = none → s.fetch = .ok bytes → s.decodeAt bytes = .ok i → step s = exec i s

/-- R181, R199: where the decoder answers #UD, the step delivers vector 6 and changes nothing else. -/
def Obligations.StepTakesUdOfIllegalForms : Prop :=
  ∀ (s : State) (bytes : List Byte),
    s.exc = none → s.fetch = .ok bytes → s.decodeAt bytes = .ud →
      step s = .next { s with exc := some ⟨6, none, .fault, s.pc, true⟩ }

/-- R202: continuing an exception: the environment's changes, then `pc = saved_pc` and `rf = saved_rf`. That the
changes are a list held in the state is the model's choice (assumption log 2). -/
def Obligations.StepContinuesAfterHandler : Prop :=
  ∀ (s : State) (e : Delivered) (edits : List HandlerEdit) (rest : List (List HandlerEdit)),
    s.exc = some e → s.handlers = edits :: rest →
      step s = .next { edits.foldl State.applyEdit s with
        pc := e.savedPc, rf := e.savedRf, exc := none, handlers := rest }

/-- R196, R241: an exception without a `Handle` step ends the run. -/
def Obligations.UnhandledExceptionEndsTheRun : Prop :=
  ∀ (s : State) (e : Delivered), s.exc = some e → s.handlers = [] → step s = .fault (.unhandledException e.vec)

/-- R241, R29: at the address after the last instruction the run is over; a placement that reaches the top of the
address space is refused. Which refusal it is, and that this space is 2^32 in real-address and virtual-8086 mode too and the
refusal goes before their #UD, is the model's (assumption logs 14 and 29). -/
def Obligations.StepStopsAtTheProgramEnd : Prop :=
  ∀ s : State, s.exc = none →
    (s.prog.wraps s.mode = true → step s = .refused .placementWraps)
      ∧ (s.prog.wraps s.mode = false → s.pc = s.prog.base + BitVec.ofNat 64 s.prog.bytes.length →
          step s = .refused .endOfProgram)

/-! ## #UD and #NM -/

/-- R102: two of destination, index and mask the same: #UD, state unchanged but for the delivered record. -/
def Obligations.OverlappingRegistersAreUd : Prop :=
  ∀ (i : Instr) (s : State), s.mode ≠ .code16 →
    (i.gather.dest = i.gather.index ∨ i.gather.dest = i.gather.mask ∨ i.gather.index = i.gather.mask) →
    exec i s = .next { s with exc := some ⟨6, none, .fault, s.pc, true⟩ }

/-- R103, R104: `mod = 11b`, or no SIB byte: #UD, whatever admitted legacy bytes stand before the encoding and whatever
follows the ModRM byte. -/
def Obligations.OperandWithoutSibIsUd : Prop :=
  ∀ (s : State) (legacy : List Byte) (v1 v2 op m : Byte) (rest : List Byte),
    s.exc = none → admittedLegacy legacy = true →
      s.fetch = .ok (legacy ++ 0xC4#8 :: v1 :: v2 :: op :: m :: rest) → headOk s.mode v1 v2 op = true →
      (m.extractLsb' 6 2 = 3#2 ∨ m.extractLsb' 0 3 ≠ 4#3) →
      step s = .next { s with exc := some ⟨6, none, .fault, s.pc, true⟩ }

/-- R105: a 16-bit address size (67H in `Mode32`, with or without a segment override) is #UD, and no byte after the
opcode is read. -/
def Obligations.SixteenBitAddressSizeIsUd : Prop :=
  ∀ (s : State) (legacy : List Byte) (v1 v2 op : Byte) (rest : List Byte),
    s.exc = none → s.mode = .mode32 →
      (legacy = [0x67#8]
        ∨ ∃ b, (segOfByte b).isSome = true ∧ (legacy = [b, 0x67#8] ∨ legacy = [0x67#8, b])) →
      s.fetch = .ok (legacy ++ 0xC4#8 :: v1 :: v2 :: op :: rest) → headOk .mode32 v1 v2 op = true →
      step s = .next { s with exc := some ⟨6, none, .fault, s.pc, true⟩ }

/-- R83, R106: LOCK, 66H, F2H, F3H, or REX in `Mode64`, before one of the four encodings: #UD. -/
def Obligations.ForbiddenLegacyByteIsUd : Prop :=
  ∀ (s : State) (legacy : List Byte) (b v1 v2 op : Byte) (rest : List Byte),
    s.exc = none → admittedLegacy legacy = true →
      forbiddenByte s.mode b →
      s.fetch = .ok (legacy ++ b :: 0xC4#8 :: v1 :: v2 :: op :: rest) → headOk s.mode v1 v2 op = true →
      step s = .next { s with exc := some ⟨6, none, .fault, s.pc, true⟩ }

/-- R182 (g) to (j), R33, R101: AVX2 not reported, CR4.OSXSAVE = 0, XCR0 bits 2:1 not 11b, CR0.PE = 0 (real-address mode)
or EFLAGS.VM = 1 (virtual-8086 mode): #UD, of the instruction and of a step at the bytes of one of the four encodings, with
any admitted legacy bytes before them and whatever follows the opcode (R109 reads no further), outside a 16-bit code
segment. That PE and VM go before LMA and L where they disagree, and that the real-address and virtual-8086 modes recognise
the encodings as `Mode32` does, is the model's reading (assumption logs 27 and 17). -/
def Obligations.NotEnabledIsUd : Prop :=
  ∀ s : State,
    ¬ (s.ctl.pe = true ∧ s.flags.vm = false ∧ ¬ (s.ctl.lma = true ∧ s.ctl.csL = true) ∧ s.ctl.csD = false) →
    (s.cfg.avx2 = false ∨ s.ctl.osxsave = false ∨ s.ctl.sse = false ∨ s.ctl.avx = false ∨ s.ctl.pe = false
      ∨ s.flags.vm = true) →
    (∀ i : Instr, exec i s = .next { s with exc := some ⟨6, none, .fault, s.pc, true⟩ })
      ∧ ∀ (legacy : List Byte) (v1 v2 op : Byte) (rest : List Byte),
          s.exc = none → admittedLegacy legacy = true →
          s.fetch = .ok (legacy ++ 0xC4#8 :: v1 :: v2 :: op :: rest) →
          ((s.ctl.pe = true ∧ s.flags.vm = false ∧ s.ctl.lma = true ∧ s.ctl.csL = true) ∨ v1.extractLsb' 6 2 = 3#2) →
          headBits v1 v2 op = true →
          step s = .next { s with exc := some ⟨6, none, .fault, s.pc, true⟩ }

/-- R183, with the modes by R33 and R101: CR0.TS = 1: #NM after the #UD checks, before any operand is read. That L counts only
with LMA is the model's reading of R33 (assumption log 27). -/
def Obligations.TaskSwitchedIsNm : Prop :=
  ∀ (i : Instr) (s : State),
    s.ctl.pe = true → s.flags.vm = false → ((s.ctl.lma = true ∧ s.ctl.csL = true) ∨ s.ctl.csD = true) →
    s.cfg.avx2 = true → s.ctl.osxsave = true → s.ctl.sse = true → s.ctl.avx = true → i.gather.overlaps = false →
    s.ctl.ts = true →
      exec i s = .next { s with exc := some ⟨7, none, .fault, s.pc, true⟩ }

/-- R101, R33: a 16-bit code segment in protected mode (CR0.PE = 1, VM = 0, not LMA with L = 1, D = 0) is refused, not
#UD. That LMA with L goes before D where they disagree is the model's order (assumption log 27). -/
def Obligations.SixteenBitCodeSegmentIsRefused : Prop :=
  ∀ (i : Instr) (s : State),
    s.ctl.pe = true → s.flags.vm = false → ¬ (s.ctl.lma = true ∧ s.ctl.csL = true) → s.ctl.csD = false →
      exec i s = .refused .codeSegment16 ∧ (s.exc = none → ∃ r, step s = .refused r)

/-! ## Results, one per instruction -/

/-- R160: `VGATHERDPS xmm1, vm32x, xmm2`: each selected element's four bytes translate, outside `IoAddrs`, and the
result is the dword they hold. -/
def Obligations.Vgatherdps128Gathers : Prop :=
  ∀ (g : Gather) (s : State) (la : Nat → Qword) (val : Nat → Dword) (phys : Nat → Nat → Qword),
    s.ready g →
    (∀ j, j < 4 → (s.vreg g.mask).bits.getLsbD (32 * j + 31) = true →
      lin s g.seg (truncA g.asize
          (baseValue g s + (elem32 (s.vreg g.index) j).signExtend 64 * scaleValue g.scale + g.disp)) = .ok (la j)
        ∧ ∀ b, b < 4 → s.translate (wrapLinear s.mode (la j + BitVec.ofNat 64 b)) = .phys (phys j b)
            ∧ s.isIo (phys j b) = false ∧ (val j).extractLsb' (8 * b) 8 = s.mem.read (phys j b).toNat) →
    ∃ t, exec (.vgatherdps128 g) s = .next t
      ∧ (∀ j, j < 4 → elem32 (t.vreg g.dest) j
          = if (s.vreg g.mask).bits.getLsbD (32 * j + 31) = true then val j else elem32 (s.vreg g.dest) j)
      ∧ (∀ j, 4 ≤ j → j < s.cfg.vlmax / 32 → elem32 (t.vreg g.dest) j = 0#32)
      ∧ t.vreg g.mask = ⟨s.cfg.vlmax, 0⟩ ∧ t.pc = s.nextPc g.len ∧ t.rf = false ∧ t.exc = s.exc

/-- R161: `VGATHERDPS ymm1, vm32y, ymm2`: each selected element's four bytes translate, outside `IoAddrs`, and the
result is the dword they hold. Bits above 255, where CFG.VLMAX has them, are zeroed too (D29). -/
def Obligations.Vgatherdps256Gathers : Prop :=
  ∀ (g : Gather) (s : State) (la : Nat → Qword) (val : Nat → Dword) (phys : Nat → Nat → Qword),
    s.ready g →
    (∀ j, j < 8 → (s.vreg g.mask).bits.getLsbD (32 * j + 31) = true →
      lin s g.seg (truncA g.asize
          (baseValue g s + (elem32 (s.vreg g.index) j).signExtend 64 * scaleValue g.scale + g.disp)) = .ok (la j)
        ∧ ∀ b, b < 4 → s.translate (wrapLinear s.mode (la j + BitVec.ofNat 64 b)) = .phys (phys j b)
            ∧ s.isIo (phys j b) = false ∧ (val j).extractLsb' (8 * b) 8 = s.mem.read (phys j b).toNat) →
    ∃ t, exec (.vgatherdps256 g) s = .next t
      ∧ (∀ j, j < 8 → elem32 (t.vreg g.dest) j
          = if (s.vreg g.mask).bits.getLsbD (32 * j + 31) = true then val j else elem32 (s.vreg g.dest) j)
      ∧ (∀ j, 8 ≤ j → j < s.cfg.vlmax / 32 → elem32 (t.vreg g.dest) j = 0#32)
      ∧ t.vreg g.mask = ⟨s.cfg.vlmax, 0⟩ ∧ t.pc = s.nextPc g.len ∧ t.rf = false ∧ t.exc = s.exc

/-- R170: `VGATHERQPS xmm1, vm64x, xmm2`: each selected element's four bytes translate, outside `IoAddrs`, and the
result is the dword they hold. -/
def Obligations.Vgatherqps128Gathers : Prop :=
  ∀ (g : Gather) (s : State) (la : Nat → Qword) (val : Nat → Dword) (phys : Nat → Nat → Qword),
    s.ready g →
    (∀ j, j < 2 → (s.vreg g.mask).bits.getLsbD (32 * j + 31) = true →
      lin s g.seg (truncA g.asize
          (baseValue g s + elem64 (s.vreg g.index) j * scaleValue g.scale + g.disp)) = .ok (la j)
        ∧ ∀ b, b < 4 → s.translate (wrapLinear s.mode (la j + BitVec.ofNat 64 b)) = .phys (phys j b)
            ∧ s.isIo (phys j b) = false ∧ (val j).extractLsb' (8 * b) 8 = s.mem.read (phys j b).toNat) →
    ∃ t, exec (.vgatherqps128 g) s = .next t
      ∧ (∀ j, j < 2 → elem32 (t.vreg g.dest) j
          = if (s.vreg g.mask).bits.getLsbD (32 * j + 31) = true then val j else elem32 (s.vreg g.dest) j)
      ∧ (∀ j, 2 ≤ j → j < s.cfg.vlmax / 32 → elem32 (t.vreg g.dest) j = 0#32)
      ∧ t.vreg g.mask = ⟨s.cfg.vlmax, 0⟩ ∧ t.pc = s.nextPc g.len ∧ t.rf = false ∧ t.exc = s.exc

/-- R171: `VGATHERQPS xmm1, vm64y, xmm2`: each selected element's four bytes translate, outside `IoAddrs`, and the
result is the dword they hold. -/
def Obligations.Vgatherqps256Gathers : Prop :=
  ∀ (g : Gather) (s : State) (la : Nat → Qword) (val : Nat → Dword) (phys : Nat → Nat → Qword),
    s.ready g →
    (∀ j, j < 4 → (s.vreg g.mask).bits.getLsbD (32 * j + 31) = true →
      lin s g.seg (truncA g.asize
          (baseValue g s + elem64 (s.vreg g.index) j * scaleValue g.scale + g.disp)) = .ok (la j)
        ∧ ∀ b, b < 4 → s.translate (wrapLinear s.mode (la j + BitVec.ofNat 64 b)) = .phys (phys j b)
            ∧ s.isIo (phys j b) = false ∧ (val j).extractLsb' (8 * b) 8 = s.mem.read (phys j b).toNat) →
    ∃ t, exec (.vgatherqps256 g) s = .next t
      ∧ (∀ j, j < 4 → elem32 (t.vreg g.dest) j
          = if (s.vreg g.mask).bits.getLsbD (32 * j + 31) = true then val j else elem32 (s.vreg g.dest) j)
      ∧ (∀ j, 4 ≤ j → j < s.cfg.vlmax / 32 → elem32 (t.vreg g.dest) j = 0#32)
      ∧ t.vreg g.mask = ⟨s.cfg.vlmax, 0⟩ ∧ t.pc = s.nextPc g.len ∧ t.rf = false ∧ t.exc = s.exc

/-! ## Completion, all four instructions -/

/-- R131, R133: the destination at completion: loaded elements merged into the old value, everything above the
gathered elements zero. -/
def Obligations.CompletionMergesAndZeroesTheTail : Prop :=
  ∀ (i : Instr) (s : State), s.ready i.gather → s.loadable i.form i.gather →
    ∃ t, exec i s = .next t
      ∧ (∀ j, j < i.form.n → elem32 (t.vreg i.gather.dest) j
          = if active i.form i.gather s j = true then (elemLoad i.form i.gather s j).value
            else elem32 (s.vreg i.gather.dest) j)
      ∧ (t.vreg i.gather.dest).width = s.cfg.vlmax ∧ (t.vreg i.gather.dest).bits >>> (32 * i.form.n) = 0

/-- R132: the whole mask register is zero at completion, all `CFG.VLMAX` bits. -/
def Obligations.CompletionZeroesTheMask : Prop :=
  ∀ (i : Instr) (s : State), s.ready i.gather → s.loadable i.form i.gather →
    ∃ t, exec i s = .next t ∧ t.vreg i.gather.mask = ⟨s.cfg.vlmax, 0⟩

/-- R134: the state at completion in one formula: destination, mask, `pc` and `rf`, and nothing else. The history of
read events beside it, one event for each loaded element (R75), is kept by the model's choice (assumption log 19). -/
def Obligations.CompletionInOneFormula : Prop :=
  ∀ (i : Instr) (s : State), s.ready i.gather → s.loadable i.form i.gather →
    ∃ (d1 : VReg) (batch : List ReadEvent),
      d1.width = s.cfg.vlmax
      ∧ (∀ j, j < s.cfg.vlmax / 32 → elem32 d1 j
          = if j < i.form.n then
              (if active i.form i.gather s j = true then (elemLoad i.form i.gather s j).value
               else elem32 (s.vreg i.gather.dest) j)
            else 0#32)
      ∧ (∀ ev, ev ∈ batch ↔ elemLoad i.form i.gather s ev.elem = .ok ev.val ev.phys)
      ∧ exec i s = .next
          { s with
            v := (s.v.set i.gather.dest.val d1).set i.gather.mask.val ⟨s.cfg.vlmax, 0⟩
            pc := s.nextPc i.gather.len
            rf := false
            reads := s.reads ++ [batch] }

/-- R29, with the mode by R33: `pc` moves on by the length, modulo 2^64 in `Mode64` and 2^32 in `Mode32`. -/
def Obligations.CompletionMovesPcByTheLength : Prop :=
  ∀ (i : Instr) (s : State), s.ready i.gather → s.loadable i.form i.gather →
    ∃ t, exec i s = .next t
      ∧ t.pc.toNat = (s.pc.toNat + i.gather.len)
          % (if s.ctl.lma = true ∧ s.ctl.csL = true then 2 ^ 64 else 2 ^ 32)

/-- R135: with no active element nothing is accessed and nothing can fault; the low elements stay, the tail and the
mask are zeroed. -/
def Obligations.EmptyMaskAccessesNothing : Prop :=
  ∀ (i : Instr) (s : State), s.ready i.gather →
    (∀ j, j < i.form.n → (s.vreg i.gather.mask).bits.getLsbD (32 * j + 31) = false) →
    ∃ t, exec i s = .next t ∧ t.exc = s.exc
      ∧ (∀ j, j < i.form.n → elem32 (t.vreg i.gather.dest) j = elem32 (s.vreg i.gather.dest) j)
      ∧ (t.vreg i.gather.dest).width = s.cfg.vlmax ∧ (t.vreg i.gather.dest).bits >>> (32 * i.form.n) = 0
      ∧ t.vreg i.gather.mask = ⟨s.cfg.vlmax, 0⟩ ∧ t.reads = s.reads ++ [[]]

/-- R234: the mask is consumed: the same gather executed again after it completed loads nothing and leaves the
destination as it is. -/
def Obligations.SecondGatherLoadsNothing : Prop :=
  ∀ (i : Instr) (s : State), s.ready i.gather → s.loadable i.form i.gather →
    ∃ t u, exec i s = .next t ∧ exec i t = .next u
      ∧ u.vreg i.gather.dest = t.vreg i.gather.dest ∧ u.vreg i.gather.mask = ⟨s.cfg.vlmax, 0⟩
      ∧ u.reads = t.reads ++ [[]] ∧ u.exc = s.exc

/-! ## Addresses and loads -/

/-- R125, R126: the effective address is the exact sum of base, signed index times scale and displacement, modulo
2^A. -/
def Obligations.EffectiveAddressIsTheSumModuloTheAddressSize : Prop :=
  ∀ (f : Form) (g : Gather) (s : State) (j : Nat),
    ((effAddr f g s j).toNat : Int)
      = ((match g.base with
          | some b => ((s.xreg b).toNat : Int)
          | none => 0)
          + (match f with
             | .dps128 => (elem32 (s.vreg g.index) j).toInt
             | .dps256 => (elem32 (s.vreg g.index) j).toInt
             | .qps128 => (elem64 (s.vreg g.index) j).toInt
             | .qps256 => (elem64 (s.vreg g.index) j).toInt)
            * (match g.scale with
               | .x1 => 1
               | .x2 => 2
               | .x4 => 4
               | .x8 => 8)
          + g.disp.toInt)
        % (match g.asize with
           | .a32 => 2 ^ 32
           | .a64 => 2 ^ 64)

/-- R127 (b): with a 32-bit address size a qword index contributes only its low 32 bits. -/
def Obligations.QwordIndexUpperHalfIsIgnored : Prop :=
  ∀ (f : Form) (g : Gather) (s : State) (r r' : VReg) (j : Nat),
    (f = .qps128 ∨ f = .qps256) → g.asize = .a32 →
      (elem64 r j).setWidth 32 = (elem64 r' j).setWidth 32 →
      effAddr f g { s with v := s.v.set g.index.val r } j = effAddr f g { s with v := s.v.set g.index.val r' } j

/-- R58, R184, R185 in `Mode64` (R33): the linear address is the segment base (FS and GS only) plus the effective address,
if all four bytes are canonical for `CFG.LA_BITS`; otherwise #SS(0) for SS and #GP(0) for any other segment. -/
def Obligations.LinearAddressInMode64 : Prop :=
  ∀ (s : State) (seg : Seg) (ea la : Qword),
    s.ctl.pe = true → s.flags.vm = false → s.ctl.lma = true → s.ctl.csL = true →
      1 ≤ s.cfg.laBits → s.cfg.laBits ≤ 64 →
      la = (if seg = .fs ∨ seg = .gs then (s.segment seg).base else 0#64) + ea →
      ((∀ b, b < 4 → -(2 ^ (s.cfg.laBits - 1)) ≤ (la + BitVec.ofNat 64 b).toInt
          ∧ (la + BitVec.ofNat 64 b).toInt < 2 ^ (s.cfg.laBits - 1)) →
        lin s seg ea = .ok la)
      ∧ ((∃ b, b < 4 ∧ ((la + BitVec.ofNat 64 b).toInt < -(2 ^ (s.cfg.laBits - 1))
          ∨ 2 ^ (s.cfg.laBits - 1) ≤ (la + BitVec.ofNat 64 b).toInt)) →
        lin s seg ea = .error (if seg = .ss then .ss0 else .gp0))

/-- R58, R184, R185 in `Mode32` (R33): the segment check (null selector, readable, limit), then base plus offset modulo
2^32. That L counts only with LMA is the model's reading of R33 (assumption log 27). A limit given as a highest offset, and
one given as a set of offsets, are the model's two ways of saying which offsets `SegCheck` accepts (assumption log 8). -/
def Obligations.LinearAddressInMode32 : Prop :=
  ∀ (s : State) (seg : Seg) (ea off : Qword) (inside : Prop),
    s.ctl.pe = true → s.flags.vm = false → ¬ (s.ctl.lma = true ∧ s.ctl.csL = true) → s.ctl.csD = true →
      off.toNat = ea.toNat % 2 ^ 32 →
      (inside ↔ match (s.segment seg).limit with
        | .top highest => off.toNat + 3 ≤ highest.toNat
        | .offsets accepted => ∃ r ∈ accepted, (off - r.base).toNat < r.len) →
      (((s.segment seg).null = false ∧ (s.segment seg).readable = true ∧ inside) →
        ∃ la, lin s seg ea = .ok la ∧ la.toNat = ((s.segment seg).base.toNat + ea.toNat) % 2 ^ 32)
      ∧ (((s.segment seg).null = true ∨ (s.segment seg).readable = false ∨ ¬ inside) →
        lin s seg ea = .error (if seg = .ss then .ss0 else .gp0))

/-- R53, R55, R59, R60, R65, R67, R130: what `MemRead` answers, exactly, at any address, aligned or not. A value if and only
if the four bytes translate and none lies in `IoAddrs`: byte `b` of it is the memory's byte at the translation of its own
linear address. A page fault if and only if some byte's translation faults, with the faulting bytes and their error codes.
Device memory if and only if all translate and one lies in `IoAddrs`. With CR0.PG = 0 every address translates to itself
(R33). An active element is read at its linear address, if it has one, and an inactive one not at all. That linear addresses
have 32 bits in the modes other than `Mode64` and `Mode32` is the model's choice (assumption log 29). -/
def Obligations.MemReadAnswersExactly : Prop :=
  ∀ (s : State) (la : Qword),
    (∀ val phys, s.memRead la = .ok val phys
      ↔ phys.length = 4 ∧ ∀ b, b < 4 → ∃ a, phys[b]? = some a
          ∧ s.translate (wrapLinear s.mode (la + BitVec.ofNat 64 b)) = .phys a ∧ s.isIo a = false
          ∧ val.extractLsb' (8 * b) 8 = s.mem.read a.toNat)
    ∧ ((∃ e, s.memRead la = .exc e)
      ↔ ∃ b code, b < 4 ∧ s.translate (wrapLinear s.mode (la + BitVec.ofNat 64 b)) = .fault code)
    ∧ (∀ e, s.memRead la = .exc e → ∃ faults, e = .pf faults
        ∧ ∀ a code, (a, code) ∈ faults
          ↔ ∃ b, b < 4 ∧ a = wrapLinear s.mode (la + BitVec.ofNat 64 b) ∧ s.translate a = .fault code)
    ∧ (s.memRead la = .device
      ↔ (∀ b, b < 4 → ∃ a, s.translate (wrapLinear s.mode (la + BitVec.ofNat 64 b)) = .phys a)
        ∧ ∃ b a, b < 4 ∧ s.translate (wrapLinear s.mode (la + BitVec.ofNat 64 b)) = .phys a ∧ s.isIo a = true)
    ∧ (s.ctl.pg = false → ∀ cpl, s.translateAt cpl la = .phys la)
    ∧ (wrapLinear s.mode la).toNat
        = (if s.ctl.pe = true ∧ s.flags.vm = false ∧ s.ctl.lma = true ∧ s.ctl.csL = true then la.toNat
           else la.toNat % 2 ^ 32)
    ∧ ∀ (f : Form) (g : Gather) (j : Nat), elemLoad f g s j
        = if j < f.n ∧ (s.vreg g.mask).bits.getLsbD (32 * j + 31) = true then
            (match lin s g.seg (effAddr f g s j) with
             | .error e => .exc e
             | .ok a => s.memRead a)
          else .idle

/-- R62, R75: what an execution reads. It writes no memory. Past the #UD and #NM checks it records one read event for
each completed element (every active element at completion, the set `C` at a fault exit), and no other: an element below
`n` with its mask bit set, with the translations of its own four linear bytes and the dword the memory holds there.
Before the checks it records none. That the history is kept in the state is the model's choice (assumption log 19). -/
def Obligations.ReadsAreActiveElementsOnly : Prop :=
  ∀ (i : Instr) (s t : State), exec i s = .next t →
    t.mem = s.mem
      ∧ (¬ s.ready i.gather → t.reads = s.reads)
      ∧ (s.ready i.gather → ∃ batch, t.reads = s.reads ++ [batch]
          ∧ batch.length ≤ (match i with
              | .vgatherdps128 _ => 4
              | .vgatherdps256 _ => 8
              | .vgatherqps128 _ => 2
              | .vgatherqps256 _ => 4)
          ∧ (batch.map ReadEvent.elem).Nodup
          ∧ (∀ j, (∃ ev ∈ batch, ev.elem = j)
              ↔ match faulting i.form i.gather s with
                | none => active i.form i.gather s j = true
                | some (ef, _) => j < i.form.n ∧ gathered i.form i.gather s ef j = true)
          ∧ ∀ ev ∈ batch, ev.elem < i.form.n
              ∧ (s.vreg i.gather.mask).bits.getLsbD (32 * ev.elem + 31) = true ∧ ev.phys.length = 4
              ∧ ∃ la, lin s i.gather.seg (effAddr i.form i.gather s ev.elem) = .ok la
                ∧ ∀ b, b < 4 → ∃ a, ev.phys[b]? = some a
                    ∧ s.translate (wrapLinear s.mode (la + BitVec.ofNat 64 b)) = .phys a
                    ∧ ev.val.extractLsb' (8 * b) 8 = s.mem.read a.toNat)

/-- R67: what lies at the addresses of inactive elements, in memory, translation or device space, makes no
difference to a gather that completes. -/
def Obligations.InactiveElementsMakeNoDifference : Prop :=
  ∀ (i : Instr) (s : State) (m : Memory) (tr : List TransEntry) (io : List Range),
    s.ready i.gather → s.loadable i.form i.gather →
    (∀ j, active i.form i.gather s j = true →
      elemLoad i.form i.gather { s with mem := m, trans := tr, io := io } j = elemLoad i.form i.gather s j) →
    ∃ t, exec i s = .next t
      ∧ exec i { s with mem := m, trans := tr, io := io } = .next { t with mem := m, trans := tr, io := io }

/-- R65: a ready gather is refused exactly when the bytes of some active element translate and one of them lies in
`IoAddrs`. That a page fault on the same element goes first is the model's reading (assumption log 18). -/
def Obligations.DeviceMemoryIsRefused : Prop :=
  ∀ (i : Instr) (s : State), s.ready i.gather →
    (exec i s = .refused .deviceMemory
      ↔ ∃ j la, active i.form i.gather s j = true
          ∧ lin s i.gather.seg (effAddr i.form i.gather s j) = .ok la
          ∧ (∀ b, b < 4 → ∃ a, s.translate (wrapLinear s.mode (la + BitVec.ofNat 64 b)) = .phys a)
          ∧ ∃ b a, b < 4 ∧ s.translate (wrapLinear s.mode (la + BitVec.ofNat 64 b)) = .phys a
              ∧ s.isIo a = true)

/-- R240: every execution yields a next state (completion or exception) or a refusal; the refusals are the 16-bit
code segment and device memory. -/
def Obligations.ExecutionAlwaysHasAnOutcome : Prop :=
  ∀ (i : Instr) (s : State),
    (∃ t, exec i s = .next t) ∨ (exec i s = .refused .codeSegment16 ∧ s.mode = .code16)
      ∨ (exec i s = .refused .deviceMemory ∧ s.ready i.gather)

/-! ## Fault exit -/

/-- R137: the fault reported is that of the rightmost faulting element, with the vector and error code of its kind,
whatever elements to its left do, unless a pending event is to be reported. Which event is, is the model's form of R200
(assumption log 10). -/
def Obligations.RightmostFaultIsDelivered : Prop :=
  ∀ (i : Instr) (s : State) (ef : Nat) (e : ElemExc),
    s.ready i.gather → s.noDevice i.form i.gather →
    (∀ ev ∈ s.pending, ¬ reports i.form i.gather s ef ev) → ef < i.form.n →
    elemLoad i.form i.gather s ef = .exc e → (∀ j, j < ef → ∀ e', elemLoad i.form i.gather s j ≠ .exc e') →
    ∃ t r, exec i s = .next t ∧ t.exc = some r ∧ r.kind = .fault
      ∧ (match e with
         | .gp0 => r.vec = 13 ∧ r.errcode = some 0#32 ∧ t.cr2 = s.cr2
         | .ss0 => r.vec = 12 ∧ r.errcode = some 0#32 ∧ t.cr2 = s.cr2
         | .pf faults => r.vec = 14 ∧ ∃ code, (t.cr2, code) ∈ faults ∧ r.errcode = some code)

/-- R186, R193, R60: a page fault delivers vector 14; `cr2` is the linear address of a byte of the element that
faults, and the error code is that byte's, unless a pending event is to be reported (its form is the model's, assumption
log 10). -/
def Obligations.PageFaultRecordsAFaultingByte : Prop :=
  ∀ (i : Instr) (s : State) (ef : Nat) (la : Qword) (b0 : Nat) (code0 : Dword),
    s.ready i.gather → s.noDevice i.form i.gather →
    (∀ ev ∈ s.pending, ¬ reports i.form i.gather s ef ev) → active i.form i.gather s ef = true →
    lin s i.gather.seg (effAddr i.form i.gather s ef) = .ok la →
    b0 < 4 → s.translate (wrapLinear s.mode (la + BitVec.ofNat 64 b0)) = .fault code0 →
    (∀ j, j < ef → ∀ e', elemLoad i.form i.gather s j ≠ .exc e') →
    ∃ t b code, exec i s = .next t ∧ b < 4
      ∧ s.translate (wrapLinear s.mode (la + BitVec.ofNat 64 b)) = .fault code
      ∧ t.cr2 = wrapLinear s.mode (la + BitVec.ofNat 64 b)
      ∧ t.exc = some ⟨14, some code, .fault, s.pc, true⟩

/-- R138, R139: every active element to the right of the faulting one is loaded and its mask element zero; the
faulting element keeps its destination element and its mask bit. -/
def Obligations.ElementsRightOfTheFaultAreCompleted : Prop :=
  ∀ (i : Instr) (s : State) (ef : Nat) (e : ElemExc),
    s.ready i.gather → s.noDevice i.form i.gather → faulting i.form i.gather s = some (ef, e) →
    ∃ t, exec i s = .next t
      ∧ (∀ j, j < ef → active i.form i.gather s j = true →
          (elemLoad i.form i.gather s j).isOk = true
          ∧ elem32 (t.vreg i.gather.dest) j = (elemLoad i.form i.gather s j).value
          ∧ elem32 (t.vreg i.gather.mask) j = 0#32)
      ∧ elem32 (t.vreg i.gather.dest) ef = elem32 (s.vreg i.gather.dest) ef
      ∧ (t.vreg i.gather.mask).bits.getLsbD (32 * ef + 31) = true

/-- R141: the destination's elements at a fault exit, for the completed set `C` of R140. -/
def Obligations.FaultExitDestination : Prop :=
  ∀ (i : Instr) (s : State) (ef : Nat) (e : ElemExc),
    s.ready i.gather → s.noDevice i.form i.gather → faulting i.form i.gather s = some (ef, e) →
    ∃ t, exec i s = .next t
      ∧ ∀ j, j < i.form.n → elem32 (t.vreg i.gather.dest) j
          = if gathered i.form i.gather s ef j = true then (elemLoad i.form i.gather s j).value
            else elem32 (s.vreg i.gather.dest) j

/-- R142: the mask's elements at a fault exit: zero if completed; otherwise normalised, or, under
`CFG.MASK_NORM_ON_FAULT = any`, normalised or old. In every case the mask bit says active and not completed. -/
def Obligations.FaultExitMask : Prop :=
  ∀ (i : Instr) (s : State) (ef : Nat) (e : ElemExc),
    s.ready i.gather → s.noDevice i.form i.gather → faulting i.form i.gather s = some (ef, e) →
    ∃ t, exec i s = .next t
      ∧ ∀ j, j < i.form.n →
          (gathered i.form i.gather s ef j = true → elem32 (t.vreg i.gather.mask) j = 0#32)
          ∧ (gathered i.form i.gather s ef j = false →
              elem32 (t.vreg i.gather.mask) j = normElem i.form (s.vreg i.gather.mask) j
              ∨ (s.cfg.maskNorm = .any ∧ elem32 (t.vreg i.gather.mask) j = elem32 (s.vreg i.gather.mask) j))
          ∧ (t.vreg i.gather.mask).bits.getLsbD (32 * j + 31)
              = (active i.form i.gather s j && !gathered i.form i.gather s ef j)

/-- R143: the tails at a fault exit: the destination's zero or old, as one; the mask's zero or what the pseudocode
leaves there, as one, or, under `CFG.MASK_NORM_ON_FAULT = any`, element by element also the old bits. That the choice
under `any` is made element by element is the model's (assumption log 6). -/
def Obligations.FaultExitTails : Prop :=
  ∀ (i : Instr) (s : State) (ef : Nat) (e : ElemExc),
    s.ready i.gather → s.noDevice i.form i.gather → faulting i.form i.gather s = some (ef, e) →
    ∃ t, exec i s = .next t
      ∧ ((∀ j, i.form.n ≤ j → j < s.cfg.vlmax / 32 → elem32 (t.vreg i.gather.dest) j = 0#32)
        ∨ (∀ j, i.form.n ≤ j → j < s.cfg.vlmax / 32 →
            elem32 (t.vreg i.gather.dest) j = elem32 (s.vreg i.gather.dest) j))
      ∧ ((∀ j, i.form.n ≤ j → j < s.cfg.vlmax / 32 → elem32 (t.vreg i.gather.mask) j = 0#32)
        ∨ (∀ j, i.form.n ≤ j → j < s.cfg.vlmax / 32 →
            (elem32 (t.vreg i.gather.mask) j
              = if j < i.form.k then normElem i.form (s.vreg i.gather.mask) j
                else if i.form.vl = 128 then 0#32
                else elem32 (s.vreg i.gather.mask) j)
            ∨ (s.cfg.maskNorm = .any ∧ elem32 (t.vreg i.gather.mask) j = elem32 (s.vreg i.gather.mask) j)))

/-- R144, R199: the rest of the state at a fault exit: nothing but destination, mask, `cr2`, the delivered record and
the model's own history and draw counter (assumption logs 6 and 19) differs from the old state; `cr2` is written only for
a page fault. -/
def Obligations.FaultExitLeavesTheRest : Prop :=
  ∀ (i : Instr) (s : State) (ef : Nat) (e : ElemExc),
    s.ready i.gather → s.noDevice i.form i.gather → faulting i.form i.gather s = some (ef, e) →
    ∃ t, exec i s = .next t
      ∧ t = { s with v := t.v, cr2 := t.cr2, exc := t.exc, reads := t.reads, draws := t.draws }
      ∧ (∀ k, k ≠ i.gather.dest → k ≠ i.gather.mask → t.vreg k = s.vreg k)
      ∧ (t.cr2 = s.cr2 ∨ ∃ faults, e = .pf faults)
      ∧ ∃ r, t.exc = some r ∧ r.savedPc = s.pc

/-- R140: repeatable: equal instructions in architecturally equal states complete the same elements, whatever the
draws. -/
def Obligations.PartialCompletionIsRepeatable : Prop :=
  ∀ (i : Instr) (s s' t t' : State) (ef : Nat) (e : ElemExc),
    s.architectural = s'.architectural →
    s.ready i.gather → s.noDevice i.form i.gather → faulting i.form i.gather s = some (ef, e) →
    exec i s = .next t → exec i s' = .next t' →
    ∀ j, j < i.form.n → elem32 (t.vreg i.gather.dest) j = elem32 (t'.vreg i.gather.dest) j
      ∧ (t.vreg i.gather.mask).bits.getLsbD (32 * j + 31) = (t'.vreg i.gather.mask).bits.getLsbD (32 * j + 31)

/-- R200: the first pending trap or interrupt that is to be reported, one that watches nothing in particular or a byte
of a completed element, is delivered in lieu of the fault, without an error code, and `cr2` stays. With none to be
reported (no element completed, or no watched byte among theirs) the fault is delivered. That pending events are a list
in the state, with the range they watch, is the model's choice (assumption log 10). -/
def Obligations.PendingEventReplacesTheFault : Prop :=
  ∀ (i : Instr) (s : State) (ef : Nat) (e : ElemExc),
    s.ready i.gather → s.noDevice i.form i.gather → faulting i.form i.gather s = some (ef, e) →
    ∃ t r, exec i s = .next t ∧ t.exc = some r ∧ r.savedPc = s.pc ∧ r.savedRf = true
      ∧ (∀ earlier ev later, s.pending = earlier ++ ev :: later →
          (∀ ev' ∈ earlier, ¬ reports i.form i.gather s ef ev') → reports i.form i.gather s ef ev →
          r.vec = ev.vec ∧ r.errcode = none ∧ t.cr2 = s.cr2
          ∧ r.kind = (match ev.kind with
              | .trap => .trap
              | .interrupt => .interrupt))
      ∧ ((∀ ev ∈ s.pending, ¬ reports i.form i.gather s ef ev) →
          r.kind = .fault ∧ r.vec = (match e with
              | .gp0 => 13
              | .ss0 => 12
              | .pf _ => 14))

/-- R197, R198: every exception saves the gather's own address and RF = 1, and leaves `pc` and the live RF. -/
def Obligations.ExceptionsAreRestartable : Prop :=
  ∀ (i : Instr) (s t : State) (r : Delivered),
    s.exc = none → exec i s = .next t → t.exc = some r →
      r.savedPc = s.pc ∧ r.savedRf = true ∧ t.pc = s.pc ∧ t.rf = s.rf

/-- R187, R188 (and R180's table): the faults a gather raises are #UD, #NM, #SS, #GP and #PF; never #AC, never #XM,
and MXCSR never changes. Anything else delivered is one of the pending events. The list of pending events and the MXCSR
field are held by the model's choice (assumption logs 10 and 15). -/
def Obligations.NeverAlignmentCheckOrSimdException : Prop :=
  ∀ (i : Instr) (s t : State),
    exec i s = .next t →
      t.mxcsr = s.mxcsr
      ∧ ∀ r, s.exc = none → t.exc = some r →
          (r.kind = .fault → (r.vec = 6 ∨ r.vec = 7 ∨ r.vec = 12 ∨ r.vec = 13 ∨ r.vec = 14)
            ∧ r.vec ≠ 17 ∧ r.vec ≠ 19)
          ∧ (r.kind ≠ .fault → ∃ ev ∈ s.pending, ev.vec = r.vec)

/-- R145: continuing a fault exit once. The environment may leave any state `c` that has the gather's three vector
registers as the fault exit left them; if there every active element of the uninterrupted gather loads (a page mapped, a
segment or a base repaired), and the elements loaded before load the same, executing the instruction again ends in the
state the uninterrupted gather would end in: the one executed from `c` with the old destination and mask. Only the
history of read events differs, which is the model's (assumption log 19). -/
def Obligations.ContinuationGivesTheUninterruptedResult : Prop :=
  ∀ (i : Instr) (s t c w : State) (ef : Nat) (e : ElemExc),
    s.ready i.gather → s.noDevice i.form i.gather → faulting i.form i.gather s = some (ef, e) →
    exec i s = .next t → sameOperands i.gather c t → c.ready i.gather →
    w = { c with v := (c.v.set i.gather.dest.val (s.vreg i.gather.dest)).set i.gather.mask.val (s.vreg i.gather.mask) } →
    w.loadable i.form i.gather → loadsAgree i.form i.gather s w →
    ∃ u z, exec i c = .next u ∧ exec i w = .next z ∧ u = { z with reads := u.reads }

/-- R145: a gather continued through any number of fault exits, with arbitrary changes by the environment in between that
keep its vector registers and what its elements load, ends, once every cause is removed, with the destination and mask
of the uninterrupted gather `w`, everything else as in the last state with `pc` moved on and RF cleared; and at most `n`
of the fault exits on the way completed an element. -/
def Obligations.ContinuedChainGivesTheUninterruptedResult : Prop :=
  ∀ (i : Instr) (w s last : State) (rest : List State),
    w.ready i.gather → w.loadable i.form i.gather → sameOperands i.gather w s →
    continued i w s rest → (s :: rest).getLast? = some last →
    (∃ u z, exec i last = .next u ∧ exec i w = .next z
      ∧ u.vreg i.gather.dest = z.vreg i.gather.dest ∧ u.vreg i.gather.mask = z.vreg i.gather.mask
      ∧ (∀ k, k ≠ i.gather.dest → k ≠ i.gather.mask → u.vreg k = last.vreg k)
      ∧ u = { last with v := u.v, pc := last.nextPc i.gather.len, rf := false, reads := u.reads })
    ∧ (s :: rest).countP (progresses i.form i.gather) ≤ i.form.n

/-! ## Frames and invariants -/

/-- The frame of all four instructions (R129, R134, R144): no general register, no index register, no byte of memory, no
flag but RF, no control bit and no parameter changes; `cr2` only with a page fault, RF only by being cleared. The fields
that hold the spec's parameters, and the Handle list, are the model's (assumption logs 2, 4, 7, 9, 10, 14 and 15). -/
def Obligations.ExecutionFrame : Prop :=
  ∀ (i : Instr) (s t : State), exec i s = .next t →
    (∀ k, t.xreg k = s.xreg k)
    ∧ t.vreg i.gather.index = s.vreg i.gather.index
    ∧ (∀ k, k ≠ i.gather.dest → k ≠ i.gather.mask → t.vreg k = s.vreg k)
    ∧ (∀ a, t.mem.read a = s.mem.read a)
    ∧ t.flags = s.flags ∧ t.mxcsr = s.mxcsr ∧ t.ctl = s.ctl ∧ t.cpl = s.cpl ∧ t.segs = s.segs
    ∧ t.trans = s.trans ∧ t.io = s.io ∧ t.pending = s.pending ∧ t.prog = s.prog ∧ t.cfg = s.cfg
    ∧ t.handlers = s.handlers
    ∧ (t.cr2 = s.cr2 ∨ ∃ r, t.exc = some r ∧ r.vec = 14 ∧ r.kind = .fault)
    ∧ (t.rf = s.rf ∨ t.rf = false)
    ∧ (t.exc = s.exc ∨ (t.pc = s.pc ∧ t.rf = s.rf))

/-- R31, R32, R33, R55: the arithmetic flags, AC, CR0.AM and MXCSR are not consulted: whatever an instruction does, it
completes, takes an exception or is refused, it does the same whatever they hold, and leaves them. That the state holds
them is the model's choice (assumption log 15). -/
def Obligations.FlagsAndMxcsrAreNotConsulted : Prop :=
  ∀ (i : Instr) (s : State) (fl : Flags) (am : Bool) (mx : Dword), fl.vm = s.flags.vm →
    exec i { s with flags := fl, mxcsr := mx, ctl := { s.ctl with am := am } }
      = match exec i s with
        | .next t => .next { t with flags := fl, mxcsr := mx, ctl := { t.ctl with am := am } }
        | .fault f => .fault f
        | .refused r => .refused r

/-- R205: not privileged: where the translations in force at two privilege levels are the same (none at all with
CR0.PG = 0), whatever an instruction does, it completes, takes an exception or is refused, it does the same at both. That
`Translate` is a list of entries with a level is the model's form (assumption log 7). -/
def Obligations.PrivilegeEntersOnlyThroughTranslate : Prop :=
  ∀ (i : Instr) (s : State) (c : BitVec 2),
    (s.ctl.pg = false ∨ entriesAt c s.trans = entriesAt s.cpl s.trans) →
    exec i { s with cpl := c }
      = match exec i s with
        | .next t => .next { t with cpl := c }
        | .fault f => .fault f
        | .refused r => .refused r

/-- R61, R202: what the environment's `MemWrite` leaves unchanged: every physical byte none of the written linear
bytes translates to. That the writer names the privilege level, and that linear addresses have 32 bits in the modes other
than `Mode64` and `Mode32`, are the model's choices (assumption logs 28 and 29). -/
def Obligations.EnvironmentStoreFrame : Prop :=
  ∀ (s : State) (cpl : BitVec 2) (bytes : List Byte) (la : Qword) (a : Nat),
    s.mem.wf = true →
    (∀ b, b < bytes.length → ∀ p, s.translateAt cpl (wrapLinear s.mode (la + BitVec.ofNat 64 b)) = .phys p →
      p.toNat ≠ a) →
    (s.memWrite cpl bytes la s.mem).read a = s.mem.read a

/-- R61: what the environment's `MemWrite` writes: each byte at the translation of its own linear address, where no two
of them translate to the same physical byte. That the writer names the privilege level, and that linear addresses have 32
bits in the modes other than `Mode64` and `Mode32`, are the model's choices (assumption logs 28 and 29). -/
def Obligations.EnvironmentStoreWritesTheBytes : Prop :=
  ∀ (s : State) (cpl : BitVec 2) (bytes : List Byte) (la : Qword) (p : Nat → Qword),
    s.mem.wf = true →
    (∀ b, b < bytes.length → s.translateAt cpl (wrapLinear s.mode (la + BitVec.ofNat 64 b)) = .phys (p b)) →
    (∀ b c, b < bytes.length → c < bytes.length → p b = p c → b = c) →
    ∀ b, b < bytes.length → (s.memWrite cpl bytes la s.mem).read (p b).toNat = bytes.getD b 0#8

/-- R205, R73, R6: the mode, the program and the configuration are constant over a run. That a Handle step changes neither
the bits that make the mode nor the privilege level is the model's choice (assumption log 23): the clause on `cpl` is that
choice and not a rule. -/
def Obligations.ModeProgramAndConfigurationAreConstant : Prop :=
  ∀ s t : State, step s = .next t → t.mode = s.mode ∧ t.prog = s.prog ∧ t.cfg = s.cfg ∧ t.cpl = s.cpl

/-- The invariant every step keeps: the memory's canonical form, `pc` zero-extended outside `Mode64` (R28 for `Mode32`, the
model's choice of assumption log 29 for the other modes), a delivered
exception that is legal by R180, points at the gather (R197) and saves RF = 1 (R198), and every vector register `CFG.VLMAX`
bits wide (R24). -/
def Obligations.EveryStepKeepsTheInvariant : Prop :=
  ∀ s t : State, s.Inv → step s = .next t → t.Inv

/-- The invariant holds after reset. -/
def Obligations.ResetMeetsTheInvariant : Prop := State.reset.Inv

/-- R42, the column "after reset": the general registers but RDX and the vector registers 0, `pc` 0000FFF0H with CS base
FFFF0000H, the flags register 00000002H (every flag held 0, RF among them), `cr2` 0, CR0 60000010H (PE, TS, AM and PG 0),
CR4.OSXSAVE 0, XCR0's SSE and AVX bits 0, MXCSR 1F80H, real-address mode, nothing pending; so the encodings are not enabled.
That the model takes this column, with the defaults of CFG and nothing delivered, is its choice (assumption logs 1, 3, 4
and 12). -/
def Obligations.ResetValues : Prop :=
  (∀ k, k ≠ 2 → State.reset.xreg k = 0#64) ∧ (∀ k, State.reset.vreg k = ⟨256, 0⟩)
    ∧ State.reset.pc = 0xFFF0#64 ∧ (State.reset.segment .cs).base = 0xFFFF0000#64
    ∧ State.reset.rf = false
    ∧ State.reset.flags = ⟨false, false, false, false, false, false, false, false⟩
    ∧ State.reset.cr2 = 0#64
    ∧ State.reset.ctl.pe = false ∧ State.reset.ctl.ts = false ∧ State.reset.ctl.am = false
    ∧ State.reset.ctl.pg = false ∧ State.reset.ctl.osxsave = false
    ∧ State.reset.ctl.sse = false ∧ State.reset.ctl.avx = false
    ∧ State.reset.env = { mode := .real, ts := false, osxsave := false, xcr0SseAvx := false, avx2 := true }
    ∧ State.reset.mxcsr = 0x1F80#32 ∧ State.reset.pending = [] ∧ State.reset.exc = none
end

