-- ==== Sys2Proof/Laws/Elements.lean ====
section
/-! SUPPORT. Elements of a vector register (00_scope R9) of any width (R7): what `ofElems`, `fit` and `elem32` do to each
other. -/

namespace Sys2Proof

open Machine

/-! ## Widths (R7, R24) -/

@[simp] theorem VReg.fit_width (w : Nat) (r : VReg) : (r.fit w).width = w := rfl
@[simp] theorem VReg.zero_width (w : Nat) : (VReg.zero w).width = w := rfl
@[simp] theorem ofElems_width (w : Nat) (e : Nat → Dword) : (ofElems w e).width = w := rfl

/-- A value at its own width is itself. -/
theorem VReg.fit_self (r : VReg) : r.fit r.width = r := by simp [VReg.fit]

@[simp] theorem VReg.fit_zero (w : Nat) : (VReg.zero w).fit w = VReg.zero w := (VReg.zero w).fit_self
@[simp] theorem VReg.fit_ofElems (w : Nat) (e : Nat → Dword) : (ofElems w e).fit w = ofElems w e :=
  (ofElems w e).fit_self

/-- R7: a register has at least eight elements of 32 bits, a whole number of them. -/
theorem Cfg.vlmax_eq (c : Cfg) : c.vlmax = 32 * (8 + 4 * c.upperLanes) := by
  unfold Cfg.vlmax
  omega

theorem Cfg.vlmax_div (c : Cfg) : c.vlmax / 32 = 8 + 4 * c.upperLanes := by
  rw [c.vlmax_eq]
  omega

end Sys2Proof

namespace Sys2Proof.Machine

/-! ## Elements -/

/-- Each bit of packed elements is the bit of its element. -/
theorem testBit_packElems (e : Nat → Dword) (n i : Nat) :
    (packElems e n).testBit i = (decide (i < 32 * n) && (e (i / 32)).getLsbD (i % 32)) := by
  induction n with
  | zero => simp [packElems]
  | succ n ih =>
    simp only [packElems, Nat.testBit_or, Nat.testBit_shiftLeft, ih, BitVec.testBit_toNat]
    by_cases h1 : i < 32 * n
    · simp [h1, show ¬ 32 * n ≤ i by omega, show i < 32 * (n + 1) by omega]
    · by_cases h2 : i < 32 * (n + 1)
      · simp [h1, h2, show 32 * n ≤ i by omega, show i / 32 = n by omega, show i - 32 * n = i % 32 by omega]
      · simp [h1, h2, BitVec.getLsbD_of_ge (e n) (i - 32 * n) (by omega)]

theorem getLsbD_ofElems (w : Nat) (e : Nat → Dword) {i : Nat} (h : i < 32 * (w / 32)) :
    (ofElems w e).bits.getLsbD i = (e (i / 32)).getLsbD (i % 32) := by
  have hw : i < w := by omega
  simp only [ofElems, BitVec.getLsbD_ofNat, testBit_packElems, h, hw, decide_true, Bool.true_and]

/-- The elements of a register built from elements are those elements. -/
theorem elem32_ofElems {w : Nat} (e : Nat → Dword) {j : Nat} (hj : j < w / 32) : elem32 (ofElems w e) j = e j := by
  apply BitVec.eq_of_getLsbD_eq
  intro i hi
  simp only [elem32, BitVec.getLsbD_extractLsb', hi, decide_true, Bool.true_and]
  rw [getLsbD_ofElems w e (by omega), show (32 * j + i) / 32 = j by omega, show (32 * j + i) % 32 = i by omega]

@[simp] theorem elem32_zero (w j : Nat) : elem32 (VReg.zero w) j = 0#32 := by
  apply BitVec.eq_of_getLsbD_eq
  intro i hi
  simp [elem32, VReg.zero]

/-- Two registers of one width, a whole number of elements, with the same elements are equal. -/
theorem vreg_ext {a b : VReg} {n : Nat} (ha : a.width = 32 * n) (hb : b.width = 32 * n)
    (h : ∀ j, j < n → elem32 a j = elem32 b j) : a = b := by
  obtain ⟨wa, ba⟩ := a
  obtain ⟨wb, bb⟩ := b
  obtain rfl : wa = 32 * n := ha
  obtain rfl : wb = 32 * n := hb
  congr 1
  apply BitVec.eq_of_getLsbD_eq
  intro i hi
  have hmod : i % 32 < 32 := Nat.mod_lt _ (by decide)
  have he := congrArg (fun d : Dword => d.getLsbD (i % 32)) (h (i / 32) (by omega))
  simp only [elem32, BitVec.getLsbD_extractLsb', hmod, decide_true, Bool.true_and] at he
  rwa [show 32 * (i / 32) + i % 32 = i from Nat.div_add_mod i 32] at he

/-- The mask bit of an element is the element's most significant bit (R124). -/
theorem maskBit_eq_elem (k0 : VReg) (j : Nat) : maskBit k0 j = (elem32 k0 j).getLsbD 31 := by
  simp [maskBit, elem32]

theorem maskBit_ofElems {w : Nat} (e : Nat → Dword) {j : Nat} (hj : j < w / 32) :
    maskBit (ofElems w e) j = (e j).getLsbD 31 := by
  rw [maskBit_eq_elem, elem32_ofElems e hj]

theorem maskBit_zero (w j : Nat) : maskBit (VReg.zero w) j = false := by simp [maskBit, VReg.zero]

end Sys2Proof.Machine
end

