-- ==== Sys2Proof/Laws/State.lean ====
section
/-! SUPPORT. Small lemmas of the state's updates: one per field per update, true by unfolding, and the laws of the
register files. -/

namespace Sys2Proof.Machine

/-! ## Mode and enabling state, by the control bits (R33, R34, R101) -/

theorem State.mode_eq_mode64 {s : State} :
    s.mode = .mode64 ↔ s.ctl.pe = true ∧ s.flags.vm = false ∧ s.ctl.lma = true ∧ s.ctl.csL = true := by
  unfold State.mode modeOf
  cases s.ctl.pe <;> cases s.flags.vm <;> cases s.ctl.lma <;> cases s.ctl.csL <;> cases s.ctl.csD <;> decide

theorem State.mode_eq_mode32 {s : State} :
    s.mode = .mode32 ↔ s.ctl.pe = true ∧ s.flags.vm = false ∧ ¬ (s.ctl.lma = true ∧ s.ctl.csL = true)
      ∧ s.ctl.csD = true := by
  unfold State.mode modeOf
  cases s.ctl.pe <;> cases s.flags.vm <;> cases s.ctl.lma <;> cases s.ctl.csL <;> cases s.ctl.csD <;> decide

theorem State.mode_eq_code16 {s : State} :
    s.mode = .code16 ↔ s.ctl.pe = true ∧ s.flags.vm = false ∧ ¬ (s.ctl.lma = true ∧ s.ctl.csL = true)
      ∧ s.ctl.csD = false := by
  unfold State.mode modeOf
  cases s.ctl.pe <;> cases s.flags.vm <;> cases s.ctl.lma <;> cases s.ctl.csL <;> cases s.ctl.csD <;> decide

theorem State.mode_executes {s : State} :
    s.mode.executes = true ↔ s.ctl.pe = true ∧ s.flags.vm = false
      ∧ ((s.ctl.lma = true ∧ s.ctl.csL = true) ∨ s.ctl.csD = true) := by
  unfold State.mode modeOf
  cases s.ctl.pe <;> cases s.flags.vm <;> cases s.ctl.lma <;> cases s.ctl.csL <;> cases s.ctl.csD <;> decide

theorem State.enabled_iff {s : State} :
    s.env.enabled = true ↔ s.cfg.avx2 = true ∧ s.ctl.osxsave = true ∧ s.ctl.sse = true ∧ s.ctl.avx = true := by
  simp only [State.env, Env.enabled, Bool.and_eq_true]
  tauto

/-! ## A write of a vector register -/

@[simp] theorem State.setVreg_x (s : State) (i : Fin 16) (val : VReg) : (s.setVreg i val).x = s.x := rfl
@[simp] theorem State.setVreg_pc (s : State) (i : Fin 16) (val : VReg) : (s.setVreg i val).pc = s.pc := rfl
@[simp] theorem State.setVreg_rf (s : State) (i : Fin 16) (val : VReg) : (s.setVreg i val).rf = s.rf := rfl
@[simp] theorem State.setVreg_flags (s : State) (i : Fin 16) (val : VReg) : (s.setVreg i val).flags = s.flags := rfl
@[simp] theorem State.setVreg_mxcsr (s : State) (i : Fin 16) (val : VReg) : (s.setVreg i val).mxcsr = s.mxcsr := rfl
@[simp] theorem State.setVreg_cr2 (s : State) (i : Fin 16) (val : VReg) : (s.setVreg i val).cr2 = s.cr2 := rfl
@[simp] theorem State.setVreg_ctl (s : State) (i : Fin 16) (val : VReg) : (s.setVreg i val).ctl = s.ctl := rfl
@[simp] theorem State.setVreg_cpl (s : State) (i : Fin 16) (val : VReg) : (s.setVreg i val).cpl = s.cpl := rfl
@[simp] theorem State.setVreg_segs (s : State) (i : Fin 16) (val : VReg) : (s.setVreg i val).segs = s.segs := rfl
@[simp] theorem State.setVreg_mem (s : State) (i : Fin 16) (val : VReg) : (s.setVreg i val).mem = s.mem := rfl
@[simp] theorem State.setVreg_trans (s : State) (i : Fin 16) (val : VReg) : (s.setVreg i val).trans = s.trans := rfl
@[simp] theorem State.setVreg_io (s : State) (i : Fin 16) (val : VReg) : (s.setVreg i val).io = s.io := rfl
@[simp] theorem State.setVreg_pending (s : State) (i : Fin 16) (val : VReg) : (s.setVreg i val).pending = s.pending := rfl
@[simp] theorem State.setVreg_prog (s : State) (i : Fin 16) (val : VReg) : (s.setVreg i val).prog = s.prog := rfl
@[simp] theorem State.setVreg_cfg (s : State) (i : Fin 16) (val : VReg) : (s.setVreg i val).cfg = s.cfg := rfl
@[simp] theorem State.setVreg_exc (s : State) (i : Fin 16) (val : VReg) : (s.setVreg i val).exc = s.exc := rfl
@[simp] theorem State.setVreg_handlers (s : State) (i : Fin 16) (val : VReg) : (s.setVreg i val).handlers = s.handlers := rfl
@[simp] theorem State.setVreg_reads (s : State) (i : Fin 16) (val : VReg) : (s.setVreg i val).reads = s.reads := rfl
@[simp] theorem State.setVreg_draws (s : State) (i : Fin 16) (val : VReg) : (s.setVreg i val).draws = s.draws := rfl
@[simp] theorem State.setVreg_mode (s : State) (i : Fin 16) (val : VReg) : (s.setVreg i val).mode = s.mode := rfl
@[simp] theorem State.setVreg_env (s : State) (i : Fin 16) (val : VReg) : (s.setVreg i val).env = s.env := rfl
@[simp] theorem State.setVreg_translateAt (s : State) (i : Fin 16) (val : VReg) : (s.setVreg i val).translateAt = s.translateAt := rfl

@[simp] theorem State.setVreg_xreg (s : State) (i : Fin 16) (val : VReg) (k : Fin 16) :
    (s.setVreg i val).xreg k = s.xreg k := rfl

@[simp] theorem State.vreg_setVreg_self (s : State) (i : Fin 16) (val : VReg) :
    (s.setVreg i val).vreg i = val.fit s.cfg.vlmax := by
  simp [State.setVreg, State.vreg]

theorem State.vreg_setVreg_of_ne (s : State) {i k : Fin 16} (val : VReg) (h : k ≠ i) :
    (s.setVreg i val).vreg k = s.vreg k := by
  have hne : i.val ≠ k.val := fun e => h (Fin.ext e.symm)
  simp [State.setVreg, State.vreg, Vector.getElem_set_ne _ _ hne]

/-- A write of a vector register leaves every vector register at `CFG.VLMAX` bits. -/
theorem State.setVreg_width (s : State) (i : Fin 16) (val : VReg) (h : ∀ k, (s.vreg k).width = s.cfg.vlmax) (k : Fin 16) :
    ((s.setVreg i val).vreg k).width = s.cfg.vlmax := by
  rcases eq_or_ne k i with rfl | hk
  · rw [s.vreg_setVreg_self]
    rfl
  · rw [s.vreg_setVreg_of_ne val hk]
    exact h k

/-! ## A write of a general register -/

@[simp] theorem State.setXreg_v (s : State) (i : Fin 16) (val : Qword) : (s.setXreg i val).v = s.v := rfl
@[simp] theorem State.setXreg_pc (s : State) (i : Fin 16) (val : Qword) : (s.setXreg i val).pc = s.pc := rfl
@[simp] theorem State.setXreg_rf (s : State) (i : Fin 16) (val : Qword) : (s.setXreg i val).rf = s.rf := rfl
@[simp] theorem State.setXreg_flags (s : State) (i : Fin 16) (val : Qword) : (s.setXreg i val).flags = s.flags := rfl
@[simp] theorem State.setXreg_mxcsr (s : State) (i : Fin 16) (val : Qword) : (s.setXreg i val).mxcsr = s.mxcsr := rfl
@[simp] theorem State.setXreg_cr2 (s : State) (i : Fin 16) (val : Qword) : (s.setXreg i val).cr2 = s.cr2 := rfl
@[simp] theorem State.setXreg_ctl (s : State) (i : Fin 16) (val : Qword) : (s.setXreg i val).ctl = s.ctl := rfl
@[simp] theorem State.setXreg_cpl (s : State) (i : Fin 16) (val : Qword) : (s.setXreg i val).cpl = s.cpl := rfl
@[simp] theorem State.setXreg_segs (s : State) (i : Fin 16) (val : Qword) : (s.setXreg i val).segs = s.segs := rfl
@[simp] theorem State.setXreg_mem (s : State) (i : Fin 16) (val : Qword) : (s.setXreg i val).mem = s.mem := rfl
@[simp] theorem State.setXreg_trans (s : State) (i : Fin 16) (val : Qword) : (s.setXreg i val).trans = s.trans := rfl
@[simp] theorem State.setXreg_io (s : State) (i : Fin 16) (val : Qword) : (s.setXreg i val).io = s.io := rfl
@[simp] theorem State.setXreg_pending (s : State) (i : Fin 16) (val : Qword) : (s.setXreg i val).pending = s.pending := rfl
@[simp] theorem State.setXreg_prog (s : State) (i : Fin 16) (val : Qword) : (s.setXreg i val).prog = s.prog := rfl
@[simp] theorem State.setXreg_cfg (s : State) (i : Fin 16) (val : Qword) : (s.setXreg i val).cfg = s.cfg := rfl
@[simp] theorem State.setXreg_exc (s : State) (i : Fin 16) (val : Qword) : (s.setXreg i val).exc = s.exc := rfl
@[simp] theorem State.setXreg_handlers (s : State) (i : Fin 16) (val : Qword) : (s.setXreg i val).handlers = s.handlers := rfl
@[simp] theorem State.setXreg_reads (s : State) (i : Fin 16) (val : Qword) : (s.setXreg i val).reads = s.reads := rfl
@[simp] theorem State.setXreg_draws (s : State) (i : Fin 16) (val : Qword) : (s.setXreg i val).draws = s.draws := rfl
@[simp] theorem State.setXreg_mode (s : State) (i : Fin 16) (val : Qword) : (s.setXreg i val).mode = s.mode := rfl
@[simp] theorem State.setXreg_env (s : State) (i : Fin 16) (val : Qword) : (s.setXreg i val).env = s.env := rfl
@[simp] theorem State.setXreg_translateAt (s : State) (i : Fin 16) (val : Qword) : (s.setXreg i val).translateAt = s.translateAt := rfl

@[simp] theorem State.setXreg_vreg (s : State) (i : Fin 16) (val : Qword) (k : Fin 16) :
    (s.setXreg i val).vreg k = s.vreg k := rfl

@[simp] theorem State.xreg_setXreg_self (s : State) (i : Fin 16) (val : Qword) :
    (s.setXreg i val).xreg i = val := by
  simp [State.setXreg, State.xreg]

theorem State.xreg_setXreg_of_ne (s : State) {i k : Fin 16} (val : Qword) (h : k ≠ i) :
    (s.setXreg i val).xreg k = s.xreg k := by
  have hne : i.val ≠ k.val := fun e => h (Fin.ext e.symm)
  simp [State.setXreg, State.xreg, Vector.getElem_set_ne _ _ hne]

/-! ## Taking an exception -/

@[simp] theorem State.deliver_x (s : State) (vec : Nat) (code : Option Dword) (kind : ExcKind) : (s.deliver vec code kind).x = s.x := rfl
@[simp] theorem State.deliver_v (s : State) (vec : Nat) (code : Option Dword) (kind : ExcKind) : (s.deliver vec code kind).v = s.v := rfl
@[simp] theorem State.deliver_pc (s : State) (vec : Nat) (code : Option Dword) (kind : ExcKind) : (s.deliver vec code kind).pc = s.pc := rfl
@[simp] theorem State.deliver_rf (s : State) (vec : Nat) (code : Option Dword) (kind : ExcKind) : (s.deliver vec code kind).rf = s.rf := rfl
@[simp] theorem State.deliver_flags (s : State) (vec : Nat) (code : Option Dword) (kind : ExcKind) : (s.deliver vec code kind).flags = s.flags := rfl
@[simp] theorem State.deliver_mxcsr (s : State) (vec : Nat) (code : Option Dword) (kind : ExcKind) : (s.deliver vec code kind).mxcsr = s.mxcsr := rfl
@[simp] theorem State.deliver_cr2 (s : State) (vec : Nat) (code : Option Dword) (kind : ExcKind) : (s.deliver vec code kind).cr2 = s.cr2 := rfl
@[simp] theorem State.deliver_ctl (s : State) (vec : Nat) (code : Option Dword) (kind : ExcKind) : (s.deliver vec code kind).ctl = s.ctl := rfl
@[simp] theorem State.deliver_cpl (s : State) (vec : Nat) (code : Option Dword) (kind : ExcKind) : (s.deliver vec code kind).cpl = s.cpl := rfl
@[simp] theorem State.deliver_segs (s : State) (vec : Nat) (code : Option Dword) (kind : ExcKind) : (s.deliver vec code kind).segs = s.segs := rfl
@[simp] theorem State.deliver_mem (s : State) (vec : Nat) (code : Option Dword) (kind : ExcKind) : (s.deliver vec code kind).mem = s.mem := rfl
@[simp] theorem State.deliver_trans (s : State) (vec : Nat) (code : Option Dword) (kind : ExcKind) : (s.deliver vec code kind).trans = s.trans := rfl
@[simp] theorem State.deliver_io (s : State) (vec : Nat) (code : Option Dword) (kind : ExcKind) : (s.deliver vec code kind).io = s.io := rfl
@[simp] theorem State.deliver_pending (s : State) (vec : Nat) (code : Option Dword) (kind : ExcKind) : (s.deliver vec code kind).pending = s.pending := rfl
@[simp] theorem State.deliver_prog (s : State) (vec : Nat) (code : Option Dword) (kind : ExcKind) : (s.deliver vec code kind).prog = s.prog := rfl
@[simp] theorem State.deliver_cfg (s : State) (vec : Nat) (code : Option Dword) (kind : ExcKind) : (s.deliver vec code kind).cfg = s.cfg := rfl
@[simp] theorem State.deliver_handlers (s : State) (vec : Nat) (code : Option Dword) (kind : ExcKind) : (s.deliver vec code kind).handlers = s.handlers := rfl
@[simp] theorem State.deliver_reads (s : State) (vec : Nat) (code : Option Dword) (kind : ExcKind) : (s.deliver vec code kind).reads = s.reads := rfl
@[simp] theorem State.deliver_draws (s : State) (vec : Nat) (code : Option Dword) (kind : ExcKind) : (s.deliver vec code kind).draws = s.draws := rfl
@[simp] theorem State.deliver_mode (s : State) (vec : Nat) (code : Option Dword) (kind : ExcKind) : (s.deliver vec code kind).mode = s.mode := rfl
@[simp] theorem State.deliver_env (s : State) (vec : Nat) (code : Option Dword) (kind : ExcKind) : (s.deliver vec code kind).env = s.env := rfl
@[simp] theorem State.deliver_translateAt (s : State) (vec : Nat) (code : Option Dword) (kind : ExcKind) : (s.deliver vec code kind).translateAt = s.translateAt := rfl

@[simp] theorem State.deliver_exc (s : State) (vec : Nat) (code : Option Dword) (kind : ExcKind) :
    (s.deliver vec code kind).exc
      = some { vec := vec, errcode := code, kind := kind, savedPc := s.pc, savedRf := true } := rfl

@[simp] theorem State.deliver_vreg (s : State) (vec : Nat) (code : Option Dword) (kind : ExcKind) (k : Fin 16) :
    (s.deliver vec code kind).vreg k = s.vreg k := rfl

/-! ## Completion, read history, draw counter, CR2 -/

@[simp] theorem State.retire_x (s : State) (len : Nat) : (s.retire len).x = s.x := rfl
@[simp] theorem State.retire_v (s : State) (len : Nat) : (s.retire len).v = s.v := rfl
@[simp] theorem State.retire_flags (s : State) (len : Nat) : (s.retire len).flags = s.flags := rfl
@[simp] theorem State.retire_mxcsr (s : State) (len : Nat) : (s.retire len).mxcsr = s.mxcsr := rfl
@[simp] theorem State.retire_cr2 (s : State) (len : Nat) : (s.retire len).cr2 = s.cr2 := rfl
@[simp] theorem State.retire_ctl (s : State) (len : Nat) : (s.retire len).ctl = s.ctl := rfl
@[simp] theorem State.retire_cpl (s : State) (len : Nat) : (s.retire len).cpl = s.cpl := rfl
@[simp] theorem State.retire_segs (s : State) (len : Nat) : (s.retire len).segs = s.segs := rfl
@[simp] theorem State.retire_mem (s : State) (len : Nat) : (s.retire len).mem = s.mem := rfl
@[simp] theorem State.retire_trans (s : State) (len : Nat) : (s.retire len).trans = s.trans := rfl
@[simp] theorem State.retire_io (s : State) (len : Nat) : (s.retire len).io = s.io := rfl
@[simp] theorem State.retire_pending (s : State) (len : Nat) : (s.retire len).pending = s.pending := rfl
@[simp] theorem State.retire_prog (s : State) (len : Nat) : (s.retire len).prog = s.prog := rfl
@[simp] theorem State.retire_cfg (s : State) (len : Nat) : (s.retire len).cfg = s.cfg := rfl
@[simp] theorem State.retire_exc (s : State) (len : Nat) : (s.retire len).exc = s.exc := rfl
@[simp] theorem State.retire_handlers (s : State) (len : Nat) : (s.retire len).handlers = s.handlers := rfl
@[simp] theorem State.retire_reads (s : State) (len : Nat) : (s.retire len).reads = s.reads := rfl
@[simp] theorem State.retire_draws (s : State) (len : Nat) : (s.retire len).draws = s.draws := rfl
@[simp] theorem State.retire_mode (s : State) (len : Nat) : (s.retire len).mode = s.mode := rfl
@[simp] theorem State.retire_env (s : State) (len : Nat) : (s.retire len).env = s.env := rfl
@[simp] theorem State.retire_translateAt (s : State) (len : Nat) : (s.retire len).translateAt = s.translateAt := rfl

@[simp] theorem State.retire_pc (s : State) (len : Nat) : (s.retire len).pc = s.nextPc len := rfl
@[simp] theorem State.retire_rf (s : State) (len : Nat) : (s.retire len).rf = false := rfl
@[simp] theorem State.retire_vreg (s : State) (len : Nat) (k : Fin 16) : (s.retire len).vreg k = s.vreg k := rfl

@[simp] theorem State.addReads_x (s : State) (batch : List ReadEvent) : (s.addReads batch).x = s.x := rfl
@[simp] theorem State.addReads_v (s : State) (batch : List ReadEvent) : (s.addReads batch).v = s.v := rfl
@[simp] theorem State.addReads_pc (s : State) (batch : List ReadEvent) : (s.addReads batch).pc = s.pc := rfl
@[simp] theorem State.addReads_rf (s : State) (batch : List ReadEvent) : (s.addReads batch).rf = s.rf := rfl
@[simp] theorem State.addReads_flags (s : State) (batch : List ReadEvent) : (s.addReads batch).flags = s.flags := rfl
@[simp] theorem State.addReads_mxcsr (s : State) (batch : List ReadEvent) : (s.addReads batch).mxcsr = s.mxcsr := rfl
@[simp] theorem State.addReads_cr2 (s : State) (batch : List ReadEvent) : (s.addReads batch).cr2 = s.cr2 := rfl
@[simp] theorem State.addReads_ctl (s : State) (batch : List ReadEvent) : (s.addReads batch).ctl = s.ctl := rfl
@[simp] theorem State.addReads_cpl (s : State) (batch : List ReadEvent) : (s.addReads batch).cpl = s.cpl := rfl
@[simp] theorem State.addReads_segs (s : State) (batch : List ReadEvent) : (s.addReads batch).segs = s.segs := rfl
@[simp] theorem State.addReads_mem (s : State) (batch : List ReadEvent) : (s.addReads batch).mem = s.mem := rfl
@[simp] theorem State.addReads_trans (s : State) (batch : List ReadEvent) : (s.addReads batch).trans = s.trans := rfl
@[simp] theorem State.addReads_io (s : State) (batch : List ReadEvent) : (s.addReads batch).io = s.io := rfl
@[simp] theorem State.addReads_pending (s : State) (batch : List ReadEvent) : (s.addReads batch).pending = s.pending := rfl
@[simp] theorem State.addReads_prog (s : State) (batch : List ReadEvent) : (s.addReads batch).prog = s.prog := rfl
@[simp] theorem State.addReads_cfg (s : State) (batch : List ReadEvent) : (s.addReads batch).cfg = s.cfg := rfl
@[simp] theorem State.addReads_exc (s : State) (batch : List ReadEvent) : (s.addReads batch).exc = s.exc := rfl
@[simp] theorem State.addReads_handlers (s : State) (batch : List ReadEvent) : (s.addReads batch).handlers = s.handlers := rfl
@[simp] theorem State.addReads_draws (s : State) (batch : List ReadEvent) : (s.addReads batch).draws = s.draws := rfl
@[simp] theorem State.addReads_mode (s : State) (batch : List ReadEvent) : (s.addReads batch).mode = s.mode := rfl
@[simp] theorem State.addReads_env (s : State) (batch : List ReadEvent) : (s.addReads batch).env = s.env := rfl
@[simp] theorem State.addReads_translateAt (s : State) (batch : List ReadEvent) : (s.addReads batch).translateAt = s.translateAt := rfl

@[simp] theorem State.addReads_reads (s : State) (batch : List ReadEvent) :
    (s.addReads batch).reads = s.reads ++ [batch] := rfl
@[simp] theorem State.addReads_vreg (s : State) (batch : List ReadEvent) (k : Fin 16) :
    (s.addReads batch).vreg k = s.vreg k := rfl

@[simp] theorem State.countDraw_x (s : State) : s.countDraw.x = s.x := rfl
@[simp] theorem State.countDraw_v (s : State) : s.countDraw.v = s.v := rfl
@[simp] theorem State.countDraw_pc (s : State) : s.countDraw.pc = s.pc := rfl
@[simp] theorem State.countDraw_rf (s : State) : s.countDraw.rf = s.rf := rfl
@[simp] theorem State.countDraw_flags (s : State) : s.countDraw.flags = s.flags := rfl
@[simp] theorem State.countDraw_mxcsr (s : State) : s.countDraw.mxcsr = s.mxcsr := rfl
@[simp] theorem State.countDraw_cr2 (s : State) : s.countDraw.cr2 = s.cr2 := rfl
@[simp] theorem State.countDraw_ctl (s : State) : s.countDraw.ctl = s.ctl := rfl
@[simp] theorem State.countDraw_cpl (s : State) : s.countDraw.cpl = s.cpl := rfl
@[simp] theorem State.countDraw_segs (s : State) : s.countDraw.segs = s.segs := rfl
@[simp] theorem State.countDraw_mem (s : State) : s.countDraw.mem = s.mem := rfl
@[simp] theorem State.countDraw_trans (s : State) : s.countDraw.trans = s.trans := rfl
@[simp] theorem State.countDraw_io (s : State) : s.countDraw.io = s.io := rfl
@[simp] theorem State.countDraw_pending (s : State) : s.countDraw.pending = s.pending := rfl
@[simp] theorem State.countDraw_prog (s : State) : s.countDraw.prog = s.prog := rfl
@[simp] theorem State.countDraw_cfg (s : State) : s.countDraw.cfg = s.cfg := rfl
@[simp] theorem State.countDraw_exc (s : State) : s.countDraw.exc = s.exc := rfl
@[simp] theorem State.countDraw_handlers (s : State) : s.countDraw.handlers = s.handlers := rfl
@[simp] theorem State.countDraw_reads (s : State) : s.countDraw.reads = s.reads := rfl
@[simp] theorem State.countDraw_mode (s : State) : s.countDraw.mode = s.mode := rfl
@[simp] theorem State.countDraw_env (s : State) : s.countDraw.env = s.env := rfl
@[simp] theorem State.countDraw_translateAt (s : State) : s.countDraw.translateAt = s.translateAt := rfl

@[simp] theorem State.countDraw_draws (s : State) : s.countDraw.draws = s.draws + 1 := rfl
@[simp] theorem State.countDraw_vreg (s : State) (k : Fin 16) : s.countDraw.vreg k = s.vreg k := rfl

@[simp] theorem State.setCr2_x (s : State) (la : Qword) : (s.setCr2 la).x = s.x := rfl
@[simp] theorem State.setCr2_v (s : State) (la : Qword) : (s.setCr2 la).v = s.v := rfl
@[simp] theorem State.setCr2_pc (s : State) (la : Qword) : (s.setCr2 la).pc = s.pc := rfl
@[simp] theorem State.setCr2_rf (s : State) (la : Qword) : (s.setCr2 la).rf = s.rf := rfl
@[simp] theorem State.setCr2_flags (s : State) (la : Qword) : (s.setCr2 la).flags = s.flags := rfl
@[simp] theorem State.setCr2_mxcsr (s : State) (la : Qword) : (s.setCr2 la).mxcsr = s.mxcsr := rfl
@[simp] theorem State.setCr2_ctl (s : State) (la : Qword) : (s.setCr2 la).ctl = s.ctl := rfl
@[simp] theorem State.setCr2_cpl (s : State) (la : Qword) : (s.setCr2 la).cpl = s.cpl := rfl
@[simp] theorem State.setCr2_segs (s : State) (la : Qword) : (s.setCr2 la).segs = s.segs := rfl
@[simp] theorem State.setCr2_mem (s : State) (la : Qword) : (s.setCr2 la).mem = s.mem := rfl
@[simp] theorem State.setCr2_trans (s : State) (la : Qword) : (s.setCr2 la).trans = s.trans := rfl
@[simp] theorem State.setCr2_io (s : State) (la : Qword) : (s.setCr2 la).io = s.io := rfl
@[simp] theorem State.setCr2_pending (s : State) (la : Qword) : (s.setCr2 la).pending = s.pending := rfl
@[simp] theorem State.setCr2_prog (s : State) (la : Qword) : (s.setCr2 la).prog = s.prog := rfl
@[simp] theorem State.setCr2_cfg (s : State) (la : Qword) : (s.setCr2 la).cfg = s.cfg := rfl
@[simp] theorem State.setCr2_exc (s : State) (la : Qword) : (s.setCr2 la).exc = s.exc := rfl
@[simp] theorem State.setCr2_handlers (s : State) (la : Qword) : (s.setCr2 la).handlers = s.handlers := rfl
@[simp] theorem State.setCr2_reads (s : State) (la : Qword) : (s.setCr2 la).reads = s.reads := rfl
@[simp] theorem State.setCr2_draws (s : State) (la : Qword) : (s.setCr2 la).draws = s.draws := rfl
@[simp] theorem State.setCr2_mode (s : State) (la : Qword) : (s.setCr2 la).mode = s.mode := rfl
@[simp] theorem State.setCr2_env (s : State) (la : Qword) : (s.setCr2 la).env = s.env := rfl
@[simp] theorem State.setCr2_translateAt (s : State) (la : Qword) : (s.setCr2 la).translateAt = s.translateAt := rfl

@[simp] theorem State.setCr2_cr2 (s : State) (la : Qword) : (s.setCr2 la).cr2 = la := rfl
@[simp] theorem State.setCr2_vreg (s : State) (la : Qword) (k : Fin 16) : (s.setCr2 la).vreg k = s.vreg k := rfl

/-- `nextPc` reads only the mode and `pc`. -/
@[simp] theorem State.setVreg_nextPc (s : State) (i : Fin 16) (val : VReg) (len : Nat) :
    (s.setVreg i val).nextPc len = s.nextPc len := rfl
@[simp] theorem State.addReads_nextPc (s : State) (batch : List ReadEvent) (len : Nat) :
    (s.addReads batch).nextPc len = s.nextPc len := rfl

/-! ## Continuing after an exception -/

@[simp] theorem State.handle_pc (s : State) (e : Delivered) (edits : List HandlerEdit) (rest : List (List HandlerEdit)) :
    (s.handle e edits rest).pc = e.savedPc := rfl
@[simp] theorem State.handle_rf (s : State) (e : Delivered) (edits : List HandlerEdit) (rest : List (List HandlerEdit)) :
    (s.handle e edits rest).rf = e.savedRf := rfl
@[simp] theorem State.handle_exc (s : State) (e : Delivered) (edits : List HandlerEdit) (rest : List (List HandlerEdit)) :
    (s.handle e edits rest).exc = none := rfl
@[simp] theorem State.handle_handlers (s : State) (e : Delivered) (edits : List HandlerEdit) (rest : List (List HandlerEdit)) :
    (s.handle e edits rest).handlers = rest := rfl

end Sys2Proof.Machine
end

