-- ==== Sys2Proof/Laws/Gather.lean ====
section
/-! SUPPORT. What the shared gather can do: one lemma per shared operation (40_gather_common R121), cited instead of
unfolding. -/

namespace Sys2Proof.Machine

/-! ## Element outcomes -/

/-- `MemRead` answers a page fault on the faulting bytes, device memory, or the dword (R60). -/
theorem State.memRead_cases (s : State) (la : Qword) :
    (s.pageFaults la ≠ [] ∧ s.memRead la = .exc (.pf (s.pageFaults la)))
      ∨ (s.pageFaults la = [] ∧ (s.physAddrs la).any s.isIo = true ∧ s.memRead la = .device)
      ∨ (s.pageFaults la = [] ∧ (s.physAddrs la).any s.isIo = false
          ∧ s.memRead la = .ok (s.mem.dword (s.physAddrs la)) (s.physAddrs la)) := by
  unfold State.memRead
  cases hf : s.pageFaults la with
  | cons f rest => exact .inl ⟨by simp, rfl⟩
  | nil =>
    cases hi : (s.physAddrs la).any s.isIo with
    | true => exact .inr (.inl ⟨rfl, rfl, rfl⟩)
    | false => exact .inr (.inr ⟨rfl, rfl, rfl⟩)

/-- An inactive element is not accessed (R67). -/
theorem elemLoad_of_inactive {f : Form} {g : Gather} {s : State} {j : Nat} (h : active f g s j = false) :
    elemLoad f g s j = .idle := by
  simp [elemLoad, h]

/-- An active element is accessed at its linear address, if it has one (R130). -/
theorem elemLoad_of_active {f : Form} {g : Gather} {s : State} {j : Nat} (h : active f g s j = true) :
    elemLoad f g s j = match lin s g.seg (effAddr f g s j) with
      | .error e => .exc e
      | .ok la => s.memRead la :=
  Eq.trans (if_pos h) (by cases lin s g.seg (effAddr f g s j) <;> rfl)

/-- A loaded element is active. -/
theorem active_of_isOk {f : Form} {g : Gather} {s : State} {j : Nat} (h : (elemLoad f g s j).isOk = true) :
    active f g s j = true := by
  by_contra hn
  rw [elemLoad_of_inactive (by simpa using hn)] at h
  exact absurd h (by decide)

/-- An active element has an index below `n` and its mask bit set (R124). -/
theorem active_iff {f : Form} {g : Gather} {s : State} {j : Nat} :
    active f g s j = true ↔ j < f.n ∧ maskBit (s.vreg g.mask) j = true := by
  simp [active]

/-- R120: `n = VL / IW`. -/
theorem Form.n_eq_vl_div_iw (f : Form) : f.n = f.vl / f.iw := by cases f <;> rfl

theorem Form.n_le_eight (f : Form) : f.n ≤ 8 := by cases f <;> decide

/-- R7: every gathered element lies in the register. -/
theorem Form.n_le_vlmax (f : Form) (c : Cfg) : f.n ≤ c.vlmax / 32 := by
  have := Form.n_le_eight f
  rw [c.vlmax_div]
  omega

theorem Load.isOk_iff {r : Load} : r.isOk = true ↔ ∃ val phys, r = .ok val phys := by
  cases r <;> simp [Load.isOk]

/-! ## The faulting element -/

/-- What the search for the faulting element answers over a list. -/
theorem firstExc_none {f : Form} {g : Gather} {s : State} :
    ∀ {l : List Nat}, firstExc f g s l = none → ∀ j ∈ l, ∀ e, elemLoad f g s j ≠ .exc e
  | [], _, _, hj, _ => absurd hj (by simp)
  | k :: rest, h, j, hj, e => by
    rcases List.mem_cons.1 hj with rfl | hj'
    · intro he
      simp [firstExc, he] at h
    · refine firstExc_none (l := rest) ?_ j hj' e
      revert h
      simp only [firstExc]
      cases elemLoad f g s k <;> simp

theorem firstExc_some {f : Form} {g : Gather} {s : State} {k : Nat} {e : ElemExc} :
    ∀ {l : List Nat}, firstExc f g s l = some (k, e) → k ∈ l ∧ elemLoad f g s k = .exc e
  | [], h => by simp [firstExc] at h
  | j :: rest, h => by
    simp only [firstExc] at h
    cases hl : elemLoad f g s j with
    | exc e' =>
      simp only [hl, Option.some.injEq, Prod.mk.injEq] at h
      obtain ⟨rfl, rfl⟩ := h
      exact ⟨by simp, hl⟩
    | idle | ok | device =>
      simp only [hl] at h
      exact ⟨List.mem_cons_of_mem _ (firstExc_some h).1, (firstExc_some h).2⟩

/-- Without a faulting element no element has an exception. -/
theorem faulting_none {f : Form} {g : Gather} {s : State} (h : faulting f g s = none) {j : Nat} (hj : j < f.n)
    (e : ElemExc) : elemLoad f g s j ≠ .exc e :=
  firstExc_none h j (by simpa using hj) e

/-- The faulting element has an index below `n` and the exception named. -/
theorem faulting_some {f : Form} {g : Gather} {s : State} {k : Nat} {e : ElemExc}
    (h : faulting f g s = some (k, e)) : k < f.n ∧ elemLoad f g s k = .exc e := by
  have hs := firstExc_some h
  exact ⟨by simpa using hs.1, hs.2⟩

/-- No element below the faulting one has an exception (R137), over a list of consecutive elements. -/
theorem firstExc_least {f : Form} {g : Gather} {s : State} :
    ∀ {m l k : Nat} {e : ElemExc}, firstExc f g s (List.range' l m) = some (k, e) →
      ∀ j, l ≤ j → j < k → ∀ e', elemLoad f g s j ≠ .exc e' := by
  intro m
  induction m with
  | zero => intro l k e h; simp [firstExc] at h
  | succ m ih =>
    intro l k e h j hl hj e'
    rw [List.range'_succ] at h
    simp only [firstExc] at h
    rcases Nat.eq_or_lt_of_le hl with rfl | hlt
    · intro he
      simp only [he, Option.some.injEq, Prod.mk.injEq] at h
      omega
    · cases hx : elemLoad f g s l with
      | exc e'' =>
        simp only [hx, Option.some.injEq, Prod.mk.injEq] at h
        omega
      | idle | ok | device => simp only [hx] at h; exact ih h j hlt hj e'

/-- R137: the faulting element is the lowest-numbered one with an exception. -/
theorem faulting_iff {f : Form} {g : Gather} {s : State} {k : Nat} {e : ElemExc} :
    faulting f g s = some (k, e)
      ↔ k < f.n ∧ elemLoad f g s k = .exc e ∧ ∀ j, j < k → ∀ e', elemLoad f g s j ≠ .exc e' := by
  have least : ∀ {k e}, faulting f g s = some (k, e) → ∀ j, j < k → ∀ e', elemLoad f g s j ≠ .exc e' := by
    intro k e h j hj
    rw [faulting, List.range_eq_range'] at h
    exact firstExc_least h j (Nat.zero_le _) hj
  constructor
  · exact fun h => ⟨(faulting_some h).1, (faulting_some h).2, least h⟩
  · rintro ⟨h1, h2, h3⟩
    cases hf : faulting f g s with
    | none => exact absurd h2 (faulting_none hf h1 e)
    | some p =>
      obtain ⟨k', e'⟩ := p
      have a := (faulting_some hf).2
      rcases Nat.lt_trichotomy k k' with h | h | h
      · exact absurd h2 (least hf k h e)
      · subst h
        rw [h2] at a
        injection a with a
        rw [a]
      · exact absurd a (h3 _ h _)

/-- An active element without device memory and without an exception is loaded. -/
theorem isOk_of_active {f : Form} {g : Gather} {s : State} {j : Nat} (hd : touchesDevice f g s = false)
    (ha : active f g s j = true) (hn : ∀ e, elemLoad f g s j ≠ .exc e) : (elemLoad f g s j).isOk = true := by
  simp only [touchesDevice, List.any_eq_false, List.mem_range, beq_iff_eq] at hd
  have hdj := hd j (active_iff.1 ha).1
  cases hl : elemLoad f g s j with
  | ok val phys => rfl
  | exc e => exact absurd hl (hn e)
  | device => exact absurd hl hdj
  | idle =>
    exfalso
    simp only [elemLoad, ha, if_true] at hl
    split at hl
    · cases hl
    · rcases State.memRead_cases s ‹_› with h | h | h <;> simp [h.2] at hl

/-! ## One execution -/

/-- Every meaning is the shared gather at its form. -/
theorem exec_eq_gather (i : Instr) (s : State) : exec i s = Machine.gather i.form i.gather s := by
  cases i <;> rfl

/-- Everything one execution can do (R121). -/
theorem gather_cases (f : Form) (g : Gather) (s : State) :
    (s.mode = .code16 ∧ Machine.gather f g s = .refused .codeSegment16)
      ∨ (s.mode ≠ .code16 ∧ udCause g s = true ∧ Machine.gather f g s = .next s.raiseUd)
      ∨ (s.mode ≠ .code16 ∧ udCause g s = false ∧ s.env.ts = true ∧ Machine.gather f g s = .next s.raiseNm)
      ∨ (s.ready g ∧ touchesDevice f g s = true ∧ Machine.gather f g s = .refused .deviceMemory)
      ∨ (s.ready g ∧ touchesDevice f g s = false ∧ ∃ k e, faulting f g s = some (k, e)
          ∧ Machine.gather f g s = .next (faultExit f g s k e))
      ∨ (s.ready g ∧ touchesDevice f g s = false ∧ faulting f g s = none
          ∧ Machine.gather f g s = .next (complete f g s)) := by
  by_cases hm : s.mode = .code16
  · exact .inl ⟨hm, by simp [Machine.gather, hm]⟩
  · cases hu : udCause g s with
    | true => exact .inr (.inl ⟨hm, rfl, by simp [Machine.gather, hm, hu]⟩)
    | false =>
      cases ht : s.env.ts with
      | true => exact .inr (.inr (.inl ⟨hm, rfl, rfl, by simp [Machine.gather, hm, hu, ht]⟩))
      | false =>
        have hr : s.ready g := by
          simp only [udCause, Bool.or_eq_false_iff, Bool.not_eq_false'] at hu
          exact ⟨hu.1.1, by simp [State.enabledLaunch, hu.1.2, ht], hu.2⟩
        cases hd : touchesDevice f g s with
        | true => exact .inr (.inr (.inr (.inl ⟨hr, rfl, by simp [Machine.gather, hm, hu, ht, hd]⟩)))
        | false =>
          cases hf : faulting f g s with
          | some p =>
            obtain ⟨k, e⟩ := p
            exact .inr (.inr (.inr (.inr (.inl
              ⟨hr, rfl, k, e, rfl, by simp [Machine.gather, hm, hu, ht, hd, hf]⟩))))
          | none =>
            exact .inr (.inr (.inr (.inr (.inr ⟨hr, rfl, rfl, by simp [Machine.gather, hm, hu, ht, hd, hf]⟩))))

/-- Where a ready gather goes on past the checks. -/
theorem gather_of_ready {f : Form} {g : Gather} {s : State} (h : s.ready g) (hd : touchesDevice f g s = false) :
    Machine.gather f g s
      = match faulting f g s with
        | some (ef, e) => .next (faultExit f g s ef e)
        | none => .next (complete f g s) := by
  obtain ⟨he, hl, ho⟩ := h
  have hm : s.mode ≠ .code16 := by
    rintro hc
    rw [hc] at he
    exact absurd he (by decide)
  simp only [State.enabledLaunch, Bool.and_eq_true, Bool.not_eq_true'] at hl
  have hu : udCause g s = false := by simp [udCause, he, hl.1, ho]
  cases hf : faulting f g s <;> simp [Machine.gather, hm, hu, hl.2, hd, hf]

/-- When every active element loads, no device is touched and none faults. -/
theorem loadable_iff {f : Form} {g : Gather} {s : State} :
    s.loadable f g ↔ touchesDevice f g s = false ∧ faulting f g s = none := by
  constructor
  · intro h
    have key : ∀ j, j < f.n → elemLoad f g s j ≠ .device ∧ ∀ e, elemLoad f g s j ≠ .exc e := by
      intro j hj
      cases ha : active f g s j with
      | true =>
        obtain ⟨val, phys, hok⟩ := Load.isOk_iff.1 (h j hj ha)
        simp [hok]
      | false => simp [elemLoad_of_inactive ha]
    constructor
    · simp only [touchesDevice, List.any_eq_false, List.mem_range, beq_iff_eq]
      exact fun j hj => (key j hj).1
    · cases hf : faulting f g s with
      | none => rfl
      | some p => exact absurd (faulting_some hf).2 ((key p.1 (faulting_some hf).1).2 p.2)
  · rintro ⟨hd, hf⟩ j hj ha
    exact isOk_of_active hd ha (faulting_none hf hj)

/-! ## What completion leaves (R131 to R134) -/

@[simp] theorem complete_x (f : Form) (g : Gather) (s : State) : (complete f g s).x = s.x := rfl
@[simp] theorem complete_flags (f : Form) (g : Gather) (s : State) : (complete f g s).flags = s.flags := rfl
@[simp] theorem complete_mxcsr (f : Form) (g : Gather) (s : State) : (complete f g s).mxcsr = s.mxcsr := rfl
@[simp] theorem complete_cr2 (f : Form) (g : Gather) (s : State) : (complete f g s).cr2 = s.cr2 := rfl
@[simp] theorem complete_ctl (f : Form) (g : Gather) (s : State) : (complete f g s).ctl = s.ctl := rfl
@[simp] theorem complete_cpl (f : Form) (g : Gather) (s : State) : (complete f g s).cpl = s.cpl := rfl
@[simp] theorem complete_segs (f : Form) (g : Gather) (s : State) : (complete f g s).segs = s.segs := rfl
@[simp] theorem complete_mem (f : Form) (g : Gather) (s : State) : (complete f g s).mem = s.mem := rfl
@[simp] theorem complete_trans (f : Form) (g : Gather) (s : State) : (complete f g s).trans = s.trans := rfl
@[simp] theorem complete_io (f : Form) (g : Gather) (s : State) : (complete f g s).io = s.io := rfl
@[simp] theorem complete_pending (f : Form) (g : Gather) (s : State) : (complete f g s).pending = s.pending := rfl
@[simp] theorem complete_prog (f : Form) (g : Gather) (s : State) : (complete f g s).prog = s.prog := rfl
@[simp] theorem complete_cfg (f : Form) (g : Gather) (s : State) : (complete f g s).cfg = s.cfg := rfl
@[simp] theorem complete_exc (f : Form) (g : Gather) (s : State) : (complete f g s).exc = s.exc := rfl
@[simp] theorem complete_handlers (f : Form) (g : Gather) (s : State) : (complete f g s).handlers = s.handlers := rfl
@[simp] theorem complete_draws (f : Form) (g : Gather) (s : State) : (complete f g s).draws = s.draws := rfl
@[simp] theorem complete_pc (f : Form) (g : Gather) (s : State) : (complete f g s).pc = s.nextPc g.len := rfl
@[simp] theorem complete_reads (f : Form) (g : Gather) (s : State) :
    (complete f g s).reads = s.reads ++ [readBatch f g s (fun _ => true)] := rfl
@[simp] theorem complete_rf (f : Form) (g : Gather) (s : State) : (complete f g s).rf = false := rfl
@[simp] theorem complete_mode (f : Form) (g : Gather) (s : State) : (complete f g s).mode = s.mode := rfl
@[simp] theorem complete_xreg (f : Form) (g : Gather) (s : State) (k : Fin 16) :
    (complete f g s).xreg k = s.xreg k := rfl

/-- Distinct destination and mask (part of R102). -/
theorem Gather.dest_ne_mask {g : Gather} (h : g.overlaps = false) : g.dest ≠ g.mask := by
  simp only [Gather.overlaps, Bool.or_eq_false_iff, beq_eq_false_iff_ne] at h
  exact h.1.2

theorem complete_vreg_mask (f : Form) (g : Gather) (s : State) : (complete f g s).vreg g.mask = VReg.zero s.cfg.vlmax := by
  simp [complete]

theorem complete_vreg_dest {f : Form} {g : Gather} (s : State) (h : g.overlaps = false) :
    (complete f g s).vreg g.dest = ofElems s.cfg.vlmax (destAtCompletion f g s) := by
  simp [complete, State.vreg_setVreg_of_ne _ _ (Gather.dest_ne_mask h)]

theorem complete_vreg_other {f : Form} {g : Gather} (s : State) {k : Fin 16} (hd : k ≠ g.dest) (hm : k ≠ g.mask) :
    (complete f g s).vreg k = s.vreg k := by
  simp [complete, State.vreg_setVreg_of_ne _ _ hm, State.vreg_setVreg_of_ne _ _ hd]

/-! ## What a fault exit leaves (R137 to R144) -/

@[simp] theorem partialUpdate_x (d : Draws) (f : Form) (g : Gather) (s : State) (ef : Nat) :
    (partialUpdate d f g s ef).x = s.x := rfl
@[simp] theorem partialUpdate_pc (d : Draws) (f : Form) (g : Gather) (s : State) (ef : Nat) :
    (partialUpdate d f g s ef).pc = s.pc := rfl
@[simp] theorem partialUpdate_rf (d : Draws) (f : Form) (g : Gather) (s : State) (ef : Nat) :
    (partialUpdate d f g s ef).rf = s.rf := rfl
@[simp] theorem partialUpdate_flags (d : Draws) (f : Form) (g : Gather) (s : State) (ef : Nat) :
    (partialUpdate d f g s ef).flags = s.flags := rfl
@[simp] theorem partialUpdate_mxcsr (d : Draws) (f : Form) (g : Gather) (s : State) (ef : Nat) :
    (partialUpdate d f g s ef).mxcsr = s.mxcsr := rfl
@[simp] theorem partialUpdate_cr2 (d : Draws) (f : Form) (g : Gather) (s : State) (ef : Nat) :
    (partialUpdate d f g s ef).cr2 = s.cr2 := rfl
@[simp] theorem partialUpdate_ctl (d : Draws) (f : Form) (g : Gather) (s : State) (ef : Nat) :
    (partialUpdate d f g s ef).ctl = s.ctl := rfl
@[simp] theorem partialUpdate_cpl (d : Draws) (f : Form) (g : Gather) (s : State) (ef : Nat) :
    (partialUpdate d f g s ef).cpl = s.cpl := rfl
@[simp] theorem partialUpdate_segs (d : Draws) (f : Form) (g : Gather) (s : State) (ef : Nat) :
    (partialUpdate d f g s ef).segs = s.segs := rfl
@[simp] theorem partialUpdate_mem (d : Draws) (f : Form) (g : Gather) (s : State) (ef : Nat) :
    (partialUpdate d f g s ef).mem = s.mem := rfl
@[simp] theorem partialUpdate_trans (d : Draws) (f : Form) (g : Gather) (s : State) (ef : Nat) :
    (partialUpdate d f g s ef).trans = s.trans := rfl
@[simp] theorem partialUpdate_io (d : Draws) (f : Form) (g : Gather) (s : State) (ef : Nat) :
    (partialUpdate d f g s ef).io = s.io := rfl
@[simp] theorem partialUpdate_pending (d : Draws) (f : Form) (g : Gather) (s : State) (ef : Nat) :
    (partialUpdate d f g s ef).pending = s.pending := rfl
@[simp] theorem partialUpdate_prog (d : Draws) (f : Form) (g : Gather) (s : State) (ef : Nat) :
    (partialUpdate d f g s ef).prog = s.prog := rfl
@[simp] theorem partialUpdate_cfg (d : Draws) (f : Form) (g : Gather) (s : State) (ef : Nat) :
    (partialUpdate d f g s ef).cfg = s.cfg := rfl
@[simp] theorem partialUpdate_exc (d : Draws) (f : Form) (g : Gather) (s : State) (ef : Nat) :
    (partialUpdate d f g s ef).exc = s.exc := rfl
@[simp] theorem partialUpdate_handlers (d : Draws) (f : Form) (g : Gather) (s : State) (ef : Nat) :
    (partialUpdate d f g s ef).handlers = s.handlers := rfl

theorem partialUpdate_vreg_mask (d : Draws) (f : Form) (g : Gather) (s : State) (ef : Nat) :
    (partialUpdate d f g s ef).vreg g.mask = ofElems s.cfg.vlmax (maskAtFault d f g s ef) := by
  simp [partialUpdate]

theorem partialUpdate_vreg_dest {g : Gather} (d : Draws) (f : Form) (s : State) (ef : Nat)
    (h : g.overlaps = false) :
    (partialUpdate d f g s ef).vreg g.dest = ofElems s.cfg.vlmax (destAtFault d f g s ef) := by
  simp [partialUpdate, State.vreg_setVreg_of_ne _ _ (Gather.dest_ne_mask h)]

theorem partialUpdate_vreg_other {g : Gather} (d : Draws) (f : Form) (s : State) (ef : Nat) {k : Fin 16}
    (hd : k ≠ g.dest) (hm : k ≠ g.mask) : (partialUpdate d f g s ef).vreg k = s.vreg k := by
  simp [partialUpdate, State.vreg_setVreg_of_ne _ _ hm, State.vreg_setVreg_of_ne _ _ hd]

theorem partialUpdate_reads (d : Draws) (f : Form) (g : Gather) (s : State) (ef : Nat) :
    (partialUpdate d f g s ef).reads = s.reads ++ [readBatch f g s (completed d f g s ef)] := by
  simp [partialUpdate]

@[simp] theorem deliverElem_x (d : Draws) (s : State) (e : ElemExc) :
    (deliverElem d s e).x = s.x := by
  cases e <;> rfl
@[simp] theorem deliverElem_v (d : Draws) (s : State) (e : ElemExc) :
    (deliverElem d s e).v = s.v := by
  cases e <;> rfl
@[simp] theorem deliverElem_pc (d : Draws) (s : State) (e : ElemExc) :
    (deliverElem d s e).pc = s.pc := by
  cases e <;> rfl
@[simp] theorem deliverElem_rf (d : Draws) (s : State) (e : ElemExc) :
    (deliverElem d s e).rf = s.rf := by
  cases e <;> rfl
@[simp] theorem deliverElem_flags (d : Draws) (s : State) (e : ElemExc) :
    (deliverElem d s e).flags = s.flags := by
  cases e <;> rfl
@[simp] theorem deliverElem_mxcsr (d : Draws) (s : State) (e : ElemExc) :
    (deliverElem d s e).mxcsr = s.mxcsr := by
  cases e <;> rfl
@[simp] theorem deliverElem_ctl (d : Draws) (s : State) (e : ElemExc) :
    (deliverElem d s e).ctl = s.ctl := by
  cases e <;> rfl
@[simp] theorem deliverElem_cpl (d : Draws) (s : State) (e : ElemExc) :
    (deliverElem d s e).cpl = s.cpl := by
  cases e <;> rfl
@[simp] theorem deliverElem_segs (d : Draws) (s : State) (e : ElemExc) :
    (deliverElem d s e).segs = s.segs := by
  cases e <;> rfl
@[simp] theorem deliverElem_mem (d : Draws) (s : State) (e : ElemExc) :
    (deliverElem d s e).mem = s.mem := by
  cases e <;> rfl
@[simp] theorem deliverElem_trans (d : Draws) (s : State) (e : ElemExc) :
    (deliverElem d s e).trans = s.trans := by
  cases e <;> rfl
@[simp] theorem deliverElem_io (d : Draws) (s : State) (e : ElemExc) :
    (deliverElem d s e).io = s.io := by
  cases e <;> rfl
@[simp] theorem deliverElem_pending (d : Draws) (s : State) (e : ElemExc) :
    (deliverElem d s e).pending = s.pending := by
  cases e <;> rfl
@[simp] theorem deliverElem_prog (d : Draws) (s : State) (e : ElemExc) :
    (deliverElem d s e).prog = s.prog := by
  cases e <;> rfl
@[simp] theorem deliverElem_cfg (d : Draws) (s : State) (e : ElemExc) :
    (deliverElem d s e).cfg = s.cfg := by
  cases e <;> rfl
@[simp] theorem deliverElem_handlers (d : Draws) (s : State) (e : ElemExc) :
    (deliverElem d s e).handlers = s.handlers := by
  cases e <;> rfl
@[simp] theorem deliverElem_reads (d : Draws) (s : State) (e : ElemExc) :
    (deliverElem d s e).reads = s.reads := by
  cases e <;> rfl
@[simp] theorem deliverElem_draws (d : Draws) (s : State) (e : ElemExc) :
    (deliverElem d s e).draws = s.draws := by
  cases e <;> rfl

/-- Everything the delivery of an element's exception can be: some exception, with `cr2` perhaps written. -/
theorem deliverElem_eq (d : Draws) (p : State) (e : ElemExc) :
    (∃ vec code, deliverElem d p e = p.deliver vec code .fault)
      ∨ ∃ la code, deliverElem d p e = (p.setCr2 la).deliver 14 code .fault := by
  cases e with
  | gp0 => exact .inl ⟨_, _, rfl⟩
  | ss0 => exact .inl ⟨_, _, rfl⟩
  | pf faults => exact .inr ⟨_, _, rfl⟩

/-- Everything a fault exit can be: the partial update, with `cr2` perhaps written, delivering some exception. -/
theorem faultExitWith_eq (d : Draws) (f : Form) (g : Gather) (s : State) (ef : Nat) (e : ElemExc) :
    (∃ vec code kind, faultExitWith d f g s ef e = (partialUpdate d f g s ef).deliver vec code kind)
      ∨ ∃ la code, faultExitWith d f g s ef e
          = ((partialUpdate d f g s ef).setCr2 la).deliver 14 code .fault := by
  unfold faultExitWith
  split
  · exact .inl ⟨_, _, _, rfl⟩
  · rcases deliverElem_eq d (partialUpdate d f g s ef) e with ⟨vec, code, h⟩ | h
    · exact .inl ⟨vec, code, _, h⟩
    · exact .inr h

@[simp] theorem faultExitWith_x (d : Draws) (f : Form) (g : Gather) (s : State) (ef : Nat) (e : ElemExc) :
    (faultExitWith d f g s ef e).x = s.x := by
  rcases faultExitWith_eq d f g s ef e with ⟨_, _, _, h⟩ | ⟨_, _, h⟩ <;> simp [h]
@[simp] theorem faultExitWith_pc (d : Draws) (f : Form) (g : Gather) (s : State) (ef : Nat) (e : ElemExc) :
    (faultExitWith d f g s ef e).pc = s.pc := by
  rcases faultExitWith_eq d f g s ef e with ⟨_, _, _, h⟩ | ⟨_, _, h⟩ <;> simp [h]
@[simp] theorem faultExitWith_rf (d : Draws) (f : Form) (g : Gather) (s : State) (ef : Nat) (e : ElemExc) :
    (faultExitWith d f g s ef e).rf = s.rf := by
  rcases faultExitWith_eq d f g s ef e with ⟨_, _, _, h⟩ | ⟨_, _, h⟩ <;> simp [h]
@[simp] theorem faultExitWith_flags (d : Draws) (f : Form) (g : Gather) (s : State) (ef : Nat) (e : ElemExc) :
    (faultExitWith d f g s ef e).flags = s.flags := by
  rcases faultExitWith_eq d f g s ef e with ⟨_, _, _, h⟩ | ⟨_, _, h⟩ <;> simp [h]
@[simp] theorem faultExitWith_mxcsr (d : Draws) (f : Form) (g : Gather) (s : State) (ef : Nat) (e : ElemExc) :
    (faultExitWith d f g s ef e).mxcsr = s.mxcsr := by
  rcases faultExitWith_eq d f g s ef e with ⟨_, _, _, h⟩ | ⟨_, _, h⟩ <;> simp [h]
@[simp] theorem faultExitWith_ctl (d : Draws) (f : Form) (g : Gather) (s : State) (ef : Nat) (e : ElemExc) :
    (faultExitWith d f g s ef e).ctl = s.ctl := by
  rcases faultExitWith_eq d f g s ef e with ⟨_, _, _, h⟩ | ⟨_, _, h⟩ <;> simp [h]
@[simp] theorem faultExitWith_cpl (d : Draws) (f : Form) (g : Gather) (s : State) (ef : Nat) (e : ElemExc) :
    (faultExitWith d f g s ef e).cpl = s.cpl := by
  rcases faultExitWith_eq d f g s ef e with ⟨_, _, _, h⟩ | ⟨_, _, h⟩ <;> simp [h]
@[simp] theorem faultExitWith_segs (d : Draws) (f : Form) (g : Gather) (s : State) (ef : Nat) (e : ElemExc) :
    (faultExitWith d f g s ef e).segs = s.segs := by
  rcases faultExitWith_eq d f g s ef e with ⟨_, _, _, h⟩ | ⟨_, _, h⟩ <;> simp [h]
@[simp] theorem faultExitWith_mem (d : Draws) (f : Form) (g : Gather) (s : State) (ef : Nat) (e : ElemExc) :
    (faultExitWith d f g s ef e).mem = s.mem := by
  rcases faultExitWith_eq d f g s ef e with ⟨_, _, _, h⟩ | ⟨_, _, h⟩ <;> simp [h]
@[simp] theorem faultExitWith_trans (d : Draws) (f : Form) (g : Gather) (s : State) (ef : Nat) (e : ElemExc) :
    (faultExitWith d f g s ef e).trans = s.trans := by
  rcases faultExitWith_eq d f g s ef e with ⟨_, _, _, h⟩ | ⟨_, _, h⟩ <;> simp [h]
@[simp] theorem faultExitWith_io (d : Draws) (f : Form) (g : Gather) (s : State) (ef : Nat) (e : ElemExc) :
    (faultExitWith d f g s ef e).io = s.io := by
  rcases faultExitWith_eq d f g s ef e with ⟨_, _, _, h⟩ | ⟨_, _, h⟩ <;> simp [h]
@[simp] theorem faultExitWith_pending (d : Draws) (f : Form) (g : Gather) (s : State) (ef : Nat) (e : ElemExc) :
    (faultExitWith d f g s ef e).pending = s.pending := by
  rcases faultExitWith_eq d f g s ef e with ⟨_, _, _, h⟩ | ⟨_, _, h⟩ <;> simp [h]
@[simp] theorem faultExitWith_prog (d : Draws) (f : Form) (g : Gather) (s : State) (ef : Nat) (e : ElemExc) :
    (faultExitWith d f g s ef e).prog = s.prog := by
  rcases faultExitWith_eq d f g s ef e with ⟨_, _, _, h⟩ | ⟨_, _, h⟩ <;> simp [h]
@[simp] theorem faultExitWith_cfg (d : Draws) (f : Form) (g : Gather) (s : State) (ef : Nat) (e : ElemExc) :
    (faultExitWith d f g s ef e).cfg = s.cfg := by
  rcases faultExitWith_eq d f g s ef e with ⟨_, _, _, h⟩ | ⟨_, _, h⟩ <;> simp [h]
@[simp] theorem faultExitWith_handlers (d : Draws) (f : Form) (g : Gather) (s : State) (ef : Nat) (e : ElemExc) :
    (faultExitWith d f g s ef e).handlers = s.handlers := by
  rcases faultExitWith_eq d f g s ef e with ⟨_, _, _, h⟩ | ⟨_, _, h⟩ <;> simp [h]

/-- The vector registers of a fault exit are those of the partial update, whatever is delivered. -/
theorem faultExitWith_v (d : Draws) (f : Form) (g : Gather) (s : State) (ef : Nat) (e : ElemExc) :
    (faultExitWith d f g s ef e).v = (partialUpdate d f g s ef).v := by
  rcases faultExitWith_eq d f g s ef e with ⟨_, _, _, h⟩ | ⟨_, _, h⟩ <;> simp [h]

theorem faultExitWith_vreg (d : Draws) (f : Form) (g : Gather) (s : State) (ef : Nat) (e : ElemExc)
    (k : Fin 16) : (faultExitWith d f g s ef e).vreg k = (partialUpdate d f g s ef).vreg k := by
  simp only [State.vreg, faultExitWith_v]

theorem faultExitWith_reads (d : Draws) (f : Form) (g : Gather) (s : State) (ef : Nat) (e : ElemExc) :
    (faultExitWith d f g s ef e).reads = (partialUpdate d f g s ef).reads := by
  rcases faultExitWith_eq d f g s ef e with ⟨_, _, _, h⟩ | ⟨_, _, h⟩ <;> simp [h]

theorem faultExitWith_draws (d : Draws) (f : Form) (g : Gather) (s : State) (ef : Nat) (e : ElemExc) :
    (faultExitWith d f g s ef e).draws = s.draws + 1 := by
  rcases faultExitWith_eq d f g s ef e with ⟨_, _, _, h⟩ | ⟨_, _, h⟩ <;> simp [h, partialUpdate]

/-- Without pending events the fault of the faulting element is delivered (R200). -/
theorem faultExitWith_of_noPending (d : Draws) (f : Form) (g : Gather) (s : State) (ef : Nat) (e : ElemExc)
    (h : pendingFor f g s (completedSet d f g s ef) = none) :
    faultExitWith d f g s ef e = deliverElem d (partialUpdate d f g s ef) e := by
  simp [faultExitWith, h]

/-- A draw among faulting bytes is one of them (R193). -/
theorem pickFault_mem (pick : Nat) {faults : List (Qword × Dword)} (h : faults ≠ []) :
    pickFault pick faults ∈ faults := by
  have hlen : 0 < faults.length := List.length_pos_iff.2 h
  have hlt := Nat.mod_lt pick hlen
  rw [pickFault, List.getD_eq_getElem _ _ hlt]
  exact List.getElem_mem hlt

end Sys2Proof.Machine
end

