-- ==== Sys2Proof/Laws/Memory.lean ====
section
/-! SUPPORT. The memory's laws: the canonical form is kept by every write (10_state R37, 20_memory R61), and reads
after writes. -/

namespace Sys2Proof.Machine

theorem Memory.wfFrom_cons {lo k : Nat} {b : Byte} {rest : Memory} :
    Memory.wfFrom lo ((k, b) :: rest) = true
      ↔ lo ≤ k ∧ k < 2 ^ 64 ∧ b ≠ 0#8 ∧ Memory.wfFrom (k + 1) rest = true := by
  simp [Memory.wfFrom, and_assoc]

/-- A memory canonical from a bound is canonical from a lower one. -/
theorem Memory.wfFrom_mono {lo lo' : Nat} (h : lo' ≤ lo) :
    ∀ {m : Memory}, Memory.wfFrom lo m = true → Memory.wfFrom lo' m = true
  | [], _ => rfl
  | (_, _) :: _, hm => by
    rw [Memory.wfFrom_cons] at hm ⊢
    exact ⟨h.trans hm.1, hm.2⟩

/-- Below its bound a canonical memory reads 0. -/
theorem Memory.read_of_lt {a : Nat} :
    ∀ {lo : Nat} {m : Memory}, Memory.wfFrom lo m = true → a < lo → Memory.read m a = 0#8
  | _, [], _, _ => rfl
  | _, (k, b) :: rest, hm, ha => by
    rw [Memory.wfFrom_cons] at hm
    have hk : k ≠ a := by omega
    simpa [Memory.read, hk] using Memory.read_of_lt (m := rest) hm.2.2.2 (by omega)

/-- A write keeps the canonical form. -/
theorem Memory.write_wfFrom {a : Nat} {b : Byte} (ha : a < 2 ^ 64) :
    ∀ {lo : Nat} {m : Memory}, Memory.wfFrom lo m = true → lo ≤ a →
      Memory.wfFrom lo (Memory.write m a b) = true
  | lo, [], _, hlo => by
    by_cases hb : b = 0#8
    · simp [Memory.write, hb, Memory.wfFrom]
    · simp only [Memory.write, hb, if_false, Memory.wfFrom_cons]
      exact ⟨hlo, ha, hb, rfl⟩
  | lo, (k, c) :: rest, hm, hlo => by
    have hm' := Memory.wfFrom_cons.1 hm
    simp only [Memory.write]
    split
    · rename_i hlt
      split
      · exact hm
      · rename_i hb
        exact Memory.wfFrom_cons.2 ⟨hlo, ha, hb, Memory.wfFrom_cons.2 ⟨hlt, hm'.2⟩⟩
    · split
      · rename_i heq
        split
        · exact Memory.wfFrom_mono (by omega) hm'.2.2.2
        · rename_i hb
          exact Memory.wfFrom_cons.2 ⟨hlo, ha, hb, heq ▸ hm'.2.2.2⟩
      · exact Memory.wfFrom_cons.2
          ⟨hm'.1, hm'.2.1, hm'.2.2.1, Memory.write_wfFrom ha hm'.2.2.2 (by omega)⟩

/-- A write keeps the canonical form of a whole memory. -/
theorem Memory.write_wf {m : Memory} {a : Nat} {b : Byte} (hm : m.wf = true) (ha : a < 2 ^ 64) :
    (m.write a b).wf = true :=
  Memory.write_wfFrom ha hm (Nat.zero_le _)

/-- What a read finds after a write, in a canonical memory. -/
theorem Memory.read_write_from {a k : Nat} {b : Byte} :
    ∀ {lo : Nat} {m : Memory}, Memory.wfFrom lo m = true →
      Memory.read (Memory.write m a b) k = if k = a then b else Memory.read m k
  | _, [], _ => by
    by_cases hb : b = 0#8
    · simp [Memory.write, Memory.read, hb]
    · simp [Memory.write, Memory.read, hb, eq_comm (a := k)]
  | _, (k', c) :: rest, hm => by
    have hm' := Memory.wfFrom_cons.1 hm
    have ih := Memory.read_write_from (a := a) (k := k) (b := b) hm'.2.2.2
    have below : ∀ x, x < k' + 1 → Memory.read rest x = 0#8 := fun x hx => Memory.read_of_lt hm'.2.2.2 hx
    simp only [Memory.write]
    split
    · rename_i hlt
      split
      · rename_i hb
        by_cases hk : k = a
        · subst hk
          have hne : k' ≠ k := by omega
          simp [Memory.read, hne, hb, below k (by omega)]
        · simp [hk]
      · by_cases hk : k = a
        · simp [Memory.read, hk]
        · simp [Memory.read, hk, Ne.symm hk]
    · split
      · rename_i heq
        subst heq
        split
        · rename_i hb
          by_cases hk : k = a
          · subst hk
            simp [hb, below k (by omega)]
          · simp [Memory.read, hk, Ne.symm hk]
        · by_cases hk : k = a
          · simp [Memory.read, hk]
          · simp [Memory.read, hk, Ne.symm hk]
      · rename_i h1 h2
        by_cases hk' : k' = k
        · have hne : k ≠ a := by omega
          simp [Memory.read, hk', hne]
        · simp [Memory.read, hk', ih]

/-- A read after a write: the byte written at its address, the old byte elsewhere. -/
theorem Memory.read_write {m : Memory} (hm : m.wf = true) (a k : Nat) (b : Byte) :
    (m.write a b).read k = if k = a then b else m.read k :=
  Memory.read_write_from hm

/-- `MemWrite` keeps the canonical form (R61). -/
theorem State.memWrite_wf (s : State) (cpl : BitVec 2) :
    ∀ (bytes : List Byte) (la : Qword) {m : Memory}, m.wf = true → (s.memWrite cpl bytes la m).wf = true
  | [], _, _, hm => hm
  | b :: rest, la, m, hm => by
    simp only [State.memWrite]
    split
    · exact State.memWrite_wf s cpl rest _ (Memory.write_wf hm (BitVec.isLt _))
    · exact State.memWrite_wf s cpl rest _ hm

/-! ## Translation (R59) -/

/-- The entries of a privilege level translate as all entries do at that level. -/
theorem translate_entriesAt (cpl c : BitVec 2) (la : Qword) :
    ∀ tr : List TransEntry, Machine.translate (entriesAt cpl tr) la c = Machine.translate tr la cpl
  | [] => rfl
  | e :: rest => by
    have ih := translate_entriesAt cpl c la rest
    unfold entriesAt at ih ⊢
    cases hl : (e.cpl == none || e.cpl == some cpl) with
    | true =>
      rw [List.filter_cons_of_pos (by exact hl), List.map_cons]
      simp only [Machine.translate, TransEntry.applies, hl, ih, beq_self_eq_true, Bool.true_or]
    | false =>
      rw [List.filter_cons_of_neg (by simp only [hl]; decide), ih]
      simp only [Machine.translate, TransEntry.applies, hl, Bool.and_false, Bool.false_eq_true, if_false]

/-- With paging off `Translate` is the identity (R59). -/
theorem State.translateAt_of_paging_off {s : State} (h : s.ctl.pg = false) (cpl : BitVec 2) (la : Qword) :
    s.translateAt cpl la = .phys la := by
  simp [State.translateAt, State.paging, h, Machine.translate]

/-- `Translate` at the privilege level of the state reads the architectural state alone (R140). -/
theorem State.translate_architectural (s : State) (la : Qword) (c : BitVec 2) :
    Machine.translate s.architectural.trans la c = s.translate la :=
  translate_entriesAt s.cpl c la s.paging

/-- The reset memory is canonical. -/
theorem State.reset_mem_wf : State.reset.mem.wf = true := rfl

end Sys2Proof.Machine
end

