-- ==== Sys2Proof/Laws/PerInstr.lean ====
section
/-! SUPPORT. Statements made once per instruction: the length of a well-formed instruction (30_encoding R81). -/

namespace Sys2Proof

/-- R81: the length of an encodable operand record. -/
theorem Gather.len_bounds {mode : Mode} {g : Gather} (h : (g.dispBytes mode).isSome = true) :
    6 ≤ g.len ∧ g.len ≤ 12 := by
  obtain ⟨n, hn⟩ := Option.isSome_iff_exists.1 h
  have hp := List.find?_some hn
  have hm := List.mem_of_find?_eq_some hn
  simp only [Bool.and_eq_true, Gather.fitsLength, decide_eq_true_eq] at hp
  have h67 : g.need67 mode ≤ 1 := by
    unfold Gather.need67
    split <;> omega
  simp only [List.mem_cons, List.not_mem_nil, or_false] at hm
  omega

theorem Instr.dispBytes_of_wf {mode : Mode} {i : Instr} (h : i.wf mode = true) :
    (i.gather.dispBytes mode).isSome = true := by
  simp only [Instr.wf, Bool.and_eq_true] at h
  exact h.2

end Sys2Proof

namespace Sys2Proof.Laws.Length

/-- A well-formed instruction is 6 to 12 bytes long (R81). -/
def Statement (i : Instr) : Prop := ∀ mode : Mode, i.wf mode = true → 6 ≤ i.gather.len ∧ i.gather.len ≤ 12

theorem vgatherdps128 (g : Gather) : Statement (.vgatherdps128 g) :=
  fun _ h => Gather.len_bounds (Instr.dispBytes_of_wf h)

theorem vgatherqps128 (g : Gather) : Statement (.vgatherqps128 g) :=
  fun _ h => Gather.len_bounds (Instr.dispBytes_of_wf h)

theorem vgatherdps256 (g : Gather) : Statement (.vgatherdps256 g) :=
  fun _ h => Gather.len_bounds (Instr.dispBytes_of_wf h)

theorem vgatherqps256 (g : Gather) : Statement (.vgatherqps256 g) :=
  fun _ h => Gather.len_bounds (Instr.dispBytes_of_wf h)

end Sys2Proof.Laws.Length
end

