-- ==== Sys2Proof/Laws/Step.lean ====
section
/-! SUPPORT. What one step can do, said once; and what the environment's `Handle` step keeps. -/

namespace Sys2Proof.Machine

/-- Everything one step can do. -/
theorem step_cases (s : State) :
    (∃ e edits rest, s.exc = some e ∧ s.handlers = edits :: rest ∧ step s = .next (s.handle e edits rest))
      ∨ (∃ e, s.exc = some e ∧ s.handlers = [] ∧ step s = .fault (.unhandledException e.vec))
      ∨ (s.exc = none ∧ ∃ r, step s = .refused r)
      ∨ (s.exc = none ∧ ∃ bytes, s.fetch = .ok bytes ∧ s.decodeAt bytes = .ud ∧ step s = .next s.raiseUd)
      ∨ (s.exc = none ∧ ∃ bytes i, s.fetch = .ok bytes ∧ s.decodeAt bytes = .ok i ∧ step s = exec i s) := by
  cases he : s.exc with
  | some e =>
    cases hh : s.handlers with
    | cons edits rest => exact .inl ⟨e, edits, rest, rfl, rfl, by simp [step, he, hh]⟩
    | nil => exact .inr (.inl ⟨e, rfl, rfl, by simp [step, he, hh]⟩)
  | none =>
    refine .inr (.inr ?_)
    cases hf : s.fetch with
    | error r => exact .inl ⟨rfl, r, by simp [step, he, hf]⟩
    | ok bytes =>
      cases hd : s.decodeAt bytes with
      | ok i => exact .inr (.inr ⟨rfl, bytes, i, rfl, hd, by simp [step, he, hf, hd]⟩)
      | ud => exact .inr (.inl ⟨rfl, bytes, rfl, hd, by simp [step, he, hf, hd]⟩)
      | reject r => cases r <;> exact .inl ⟨rfl, _, by simp only [step, he, hf, hd]; rfl⟩

/-- One environment change keeps the mode, the program, the configuration, the privilege level and `pc`. -/
theorem State.applyEdit_keeps (s : State) (a : HandlerEdit) :
    (s.applyEdit a).mode = s.mode ∧ (s.applyEdit a).prog = s.prog ∧ (s.applyEdit a).cfg = s.cfg
      ∧ (s.applyEdit a).cpl = s.cpl ∧ (s.applyEdit a).reads = s.reads ∧ (s.applyEdit a).draws = s.draws := by
  cases a <;> exact ⟨rfl, rfl, rfl, rfl, rfl, rfl⟩

/-- The same of a list of changes. -/
theorem State.foldl_applyEdit_keeps (edits : List HandlerEdit) :
    ∀ s : State, (edits.foldl State.applyEdit s).mode = s.mode
      ∧ (edits.foldl State.applyEdit s).prog = s.prog ∧ (edits.foldl State.applyEdit s).cfg = s.cfg
      ∧ (edits.foldl State.applyEdit s).cpl = s.cpl ∧ (edits.foldl State.applyEdit s).reads = s.reads
      ∧ (edits.foldl State.applyEdit s).draws = s.draws := by
  induction edits with
  | nil => exact fun _ => ⟨rfl, rfl, rfl, rfl, rfl, rfl⟩
  | cons a rest ih =>
    intro s
    have h := ih (s.applyEdit a)
    have k := s.applyEdit_keeps a
    exact ⟨h.1.trans k.1, h.2.1.trans k.2.1, h.2.2.1.trans k.2.2.1, h.2.2.2.1.trans k.2.2.2.1,
      h.2.2.2.2.1.trans k.2.2.2.2.1, h.2.2.2.2.2.trans k.2.2.2.2.2⟩

/-- One environment change keeps the memory canonical. -/
theorem State.applyEdit_wf (s : State) (a : HandlerEdit) (h : s.mem.wf = true) :
    (s.applyEdit a).mem.wf = true := by
  cases a with
  | store cpl la bytes => exact s.memWrite_wf cpl bytes la h
  | _ => exact h

theorem State.foldl_applyEdit_wf (edits : List HandlerEdit) :
    ∀ s : State, s.mem.wf = true → (edits.foldl State.applyEdit s).mem.wf = true := by
  induction edits with
  | nil => exact fun _ h => h
  | cons a rest ih => exact fun s h => ih _ (s.applyEdit_wf a h)

/-- One environment change keeps every vector register at `CFG.VLMAX` bits. -/
theorem State.applyEdit_width (s : State) (a : HandlerEdit) (h : ∀ k, (s.vreg k).width = s.cfg.vlmax) (k : Fin 16) :
    ((s.applyEdit a).vreg k).width = s.cfg.vlmax := by
  cases a with
  | setV i val => exact s.setVreg_width i val h k
  | _ => exact h k

theorem State.foldl_applyEdit_width (edits : List HandlerEdit) :
    ∀ s : State, (∀ k, (s.vreg k).width = s.cfg.vlmax) →
      ∀ k, ((edits.foldl State.applyEdit s).vreg k).width = s.cfg.vlmax := by
  induction edits with
  | nil => exact fun _ h => h
  | cons a rest ih =>
    intro s h
    rw [← (s.applyEdit_keeps a).2.2.1]
    exact ih _ fun k => (s.applyEdit_width a h k).trans (congrArg Cfg.vlmax (s.applyEdit_keeps a).2.2.1.symm)

end Sys2Proof.Machine
end

