-- ==== Sys2Proof/Tests/Slice0.lean ====
section
/-! SUPPORT. Tests: terms each check of WellFormed refuses, words written out from the spec's encodings, one-step
tests from the vectors of 95_test_vectors, and a witness for the hypotheses of every obligation. -/

namespace Sys2Proof.Tests

open Sys2Proof Sys2Proof.Machine

/-! ## Helpers -/

/-- A vector register of a width from its 32-bit elements, element 0 first (the convention of 95_test_vectors). -/
def regOf (w : Nat) (l : List Nat) : VReg := ofElems w (fun j => BitVec.ofNat 32 (l.getD j 0))

/-- The low eight elements of a vector register. -/
def elems (r : VReg) : List Nat := (List.range 8).map (fun j => (elem32 r j).toNat)

/-- Its elements 8 to 15, the bits above 255 where `CFG.VLMAX` is 512. -/
def upper (r : VReg) : List Nat := (List.range 8).map (fun j => (elem32 r (8 + j)).toNat)

/-- The state with `CFG.VLMAX = 512`, its registers still to be loaded. -/
def wide (s : State) : State := { s with cfg := { s.cfg with upperLanes := 2 } }

/-- The next state of an outcome, if it is one. -/
def nextOf : Host.Outcome State Fault Refusal → Option State
  | .next s => some s
  | .fault _ => none
  | .refused _ => none

/-- A dword stored little-endian. -/
def putDword (m : Memory) (a d : Nat) : Memory :=
  (((m.write a (BitVec.ofNat 8 d)).write (a + 1) (BitVec.ofNat 8 (d / 256))).write (a + 2)
    (BitVec.ofNat 8 (d / 65536))).write (a + 3) (BitVec.ofNat 8 (d / 16777216))

/-- A memory holding the dwords listed. -/
def memOf (l : List (Nat × Nat)) : Memory := l.foldl (fun m p => putDword m p.1 p.2) []

/-- An enabled launch in 64-bit mode at 400000H (95_test_vectors' conventions). -/
def base64 (bytes : List Byte) : State := { State.reset with pc := 0x400000#64 }.launch bytes

/-- The control bits of a launch in 32-bit protected mode. -/
def control32 : Control :=
  { Control.atReset with pe := true, csD := true, osxsave := true, sse := true, avx := true }

/-- An enabled launch in 32-bit mode, every segment from 0 with the limit FFFFH of reset. -/
def base32 (bytes : List Byte) : State := { base64 bytes with ctl := control32 }

/-- Registers for a gather: one general register, destination, index and mask. -/
def load (s : State) (b : Fin 16) (x : Nat) (dest index mask : Fin 16) (d0 i0 k0 : List Nat) : State :=
  (((s.setXreg b (BitVec.ofNat 64 x)).setVreg dest (regOf s.cfg.vlmax d0)).setVreg index
    (regOf s.cfg.vlmax i0)).setVreg mask (regOf s.cfg.vlmax k0)

/-- A page of 4096 bytes that is not present. -/
def absent (page : Nat) (code : Nat) : TransEntry :=
  { range := { base := BitVec.ofNat 64 page, len := 4096 }, cpl := none, target := .fault (BitVec.ofNat 32 code) }

/-! ## WellFormed -/

/-- `vgatherdps xmm0, [rax+xmm1*4], xmm2`, the record of word E1. -/
def g1 : Gather := ⟨0, 1, 2, some 0, .x4, 0#64, .ds, .a64, 6⟩

/-- The same in 32-bit mode. -/
def g1m32 : Gather := { g1 with asize := .a32 }

theorem test_wf_accepts : (Instr.vgatherdps128 g1).wf .mode64 = true ∧ (Instr.vgatherqps256 g1).wf .mode64 = true
    ∧ (Instr.vgatherdps256 g1m32).wf .mode32 = true ∧ (Instr.vgatherqps128 g1m32).wf .mode32 = true := by decide
theorem test_wf_refuses_mode : (Instr.vgatherdps128 g1m32).wf .real = false
    ∧ (Instr.vgatherdps128 g1m32).wf .v8086 = false ∧ (Instr.vgatherdps128 g1m32).wf .code16 = false := by decide
theorem test_wf_refuses_overlap : (Instr.vgatherdps128 { g1 with dest := 1 }).wf .mode64 = false
    ∧ (Instr.vgatherdps128 { g1 with dest := 2 }).wf .mode64 = false
    ∧ (Instr.vgatherqps256 { g1 with index := 2 }).wf .mode64 = false := by decide
theorem test_wf_refuses_high_registers : (Instr.vgatherdps128 { g1m32 with dest := 8 }).wf .mode32 = false
    ∧ (Instr.vgatherdps128 { g1m32 with index := 8 }).wf .mode32 = false
    ∧ (Instr.vgatherdps128 { g1m32 with mask := 8 }).wf .mode32 = false
    ∧ (Instr.vgatherdps128 { g1m32 with base := some 8 }).wf .mode32 = false
    ∧ (Instr.vgatherdps128 { g1 with dest := 8 }).wf .mode64 = true := by decide
theorem test_wf_refuses_segment : (Instr.vgatherdps128 { g1 with seg := .ss, len := 7 }).wf .mode64 = false
    ∧ (Instr.vgatherdps128 { g1 with seg := .gs, len := 7 }).wf .mode64 = true
    ∧ (Instr.vgatherdps128 { g1m32 with seg := .ss, len := 7 }).wf .mode32 = true := by decide
theorem test_wf_refuses_address_size : (Instr.vgatherdps128 g1).wf .mode32 = false := by decide
theorem test_wf_refuses_displacement : (Instr.vgatherdps128 { g1 with disp := 1#64 }).wf .mode64 = false
    ∧ (Instr.vgatherdps128 { g1 with disp := 0x80000000#64, len := 10 }).wf .mode64 = false
    ∧ (Instr.vgatherdps128 { g1 with base := none }).wf .mode64 = false := by decide
theorem test_wf_refuses_length : (Instr.vgatherdps128 { g1 with len := 5 }).wf .mode64 = false
    ∧ (Instr.vgatherdps128 { g1 with len := 13 }).wf .mode64 = false := by decide

/-! ## Decoding: the words of 95_test_vectors section 2, bit by bit from R84 to R97 -/

/-- `V1` from its fields (R84). -/
def vex1 (r x b : BitVec 1) (m : BitVec 5) : Byte := r ++ x ++ b ++ m

/-- `V2` from its fields (R84). -/
def vex2 (w : BitVec 1) (vvvv : BitVec 4) (l : BitVec 1) (pp : BitVec 2) : Byte := w ++ vvvv ++ l ++ pp

/-- ModRM (R88). -/
def modrm (m : BitVec 2) (reg rm : BitVec 3) : Byte := m ++ reg ++ rm

/-- SIB (R90). -/
def sib (ss : BitVec 2) (index base : BitVec 3) : Byte := ss ++ index ++ base

/-- E1, `VGATHERDPS xmm1, vm32x, xmm2`. -/
def e1 : List Byte :=
  [0xC4#8, vex1 0b1#1 0b1#1 0b1#1 0b00010#5, vex2 0b0#1 0b1101#4 0b0#1 0b01#2, 0x92#8,
    modrm 0b00#2 0b000#3 0b100#3, sib 0b10#2 0b001#3 0b000#3]

/-- E2, `VGATHERDPS ymm1, vm32y, ymm2`. -/
def e2 : List Byte :=
  [0xC4#8, vex1 0b1#1 0b1#1 0b1#1 0b00010#5, vex2 0b0#1 0b1101#4 0b1#1 0b01#2, 0x92#8,
    modrm 0b00#2 0b000#3 0b100#3, sib 0b10#2 0b001#3 0b111#3]

/-- E3, `VGATHERQPS xmm1, vm64y, xmm2`. -/
def e3 : List Byte :=
  [0xC4#8, vex1 0b1#1 0b1#1 0b1#1 0b00010#5, vex2 0b0#1 0b1010#4 0b1#1 0b01#2, 0x93#8,
    modrm 0b01#2 0b011#3 0b100#3, sib 0b00#2 0b100#3 0b011#3, 0x10#8]

/-- E4, `VGATHERQPS xmm1, vm64x, xmm2`. -/
def e4 : List Byte :=
  [0xC4#8, vex1 0b0#1 0b0#1 0b0#1 0b00010#5, vex2 0b0#1 0b0100#4 0b0#1 0b01#2, 0x93#8,
    modrm 0b01#2 0b001#3 0b100#3, sib 0b11#2 0b010#3 0b100#3, 0xFC#8]

/-- Decoding in 64-bit mode with the default configuration. -/
def dec64 (bytes : List Byte) : Decoded := decode .mode64 true .ignored bytes

/-- Decoding in 32-bit mode with the default configuration. -/
def dec32 (bytes : List Byte) : Decoded := decode .mode32 true .ignored bytes

theorem test_words_are_the_spec_bytes : e1 = [0xC4#8, 0xE2#8, 0x69#8, 0x92#8, 0x04#8, 0x88#8]
    ∧ e2 = [0xC4#8, 0xE2#8, 0x6D#8, 0x92#8, 0x04#8, 0x8F#8]
    ∧ e3 = [0xC4#8, 0xE2#8, 0x55#8, 0x93#8, 0x5C#8, 0x23#8, 0x10#8]
    ∧ e4 = [0xC4#8, 0x02#8, 0x21#8, 0x93#8, 0x4C#8, 0xD4#8, 0xFC#8] := by decide
theorem test_decode_e1 : dec64 e1 = .ok (.vgatherdps128 ⟨0, 1, 2, some 0, .x4, 0#64, .ds, .a64, 6⟩) := by decide
theorem test_decode_e2 : dec64 e2 = .ok (.vgatherdps256 ⟨0, 1, 2, some 7, .x4, 0#64, .ds, .a64, 6⟩) := by decide
theorem test_decode_e3 :
    dec64 e3 = .ok (.vgatherqps256 ⟨3, 4, 5, some 3, .x1, 0x10#64, .ds, .a64, 7⟩) := by decide
theorem test_decode_e4 :
    dec64 e4 = .ok (.vgatherqps128 ⟨9, 10, 11, some 12, .x8, 0xFFFFFFFFFFFFFFFC#64, .ds, .a64, 7⟩) := by decide
/-- E5: no base, four displacement bytes. -/
theorem test_decode_e5 : dec64 [0xC4#8, 0xE2#8, 0x61#8, 0x92#8, 0x0C#8, 0x55#8, 0x40#8, 0x23#8, 0x01#8, 0x00#8]
    = .ok (.vgatherdps128 ⟨1, 2, 3, none, .x2, 0x12340#64, .ds, .a64, 10⟩) := by decide
/-- E6: base RBP, segment SS, mask register 8. -/
theorem test_decode_e6 : dec64 [0xC4#8, 0xE2#8, 0x3D#8, 0x92#8, 0x74#8, 0x3D#8, 0x00#8]
    = .ok (.vgatherdps256 ⟨6, 7, 8, some 5, .x1, 0#64, .ss, .a64, 7⟩) := by decide
/-- E7: base R13 with four displacement bytes, segment DS. -/
theorem test_decode_e7 : dec64 [0xC4#8, 0x02#8, 0x15#8, 0x93#8, 0xBC#8, 0x75#8, 0x78#8, 0x56#8, 0x34#8, 0x12#8]
    = .ok (.vgatherqps256 ⟨15, 14, 13, some 13, .x2, 0x12345678#64, .ds, .a64, 10⟩) := by decide
/-- E8 and E12: the address-size prefix, and a segment override without effect. -/
theorem test_decode_e8_e12 : dec64 [0x67#8, 0xC4#8, 0xE2#8, 0x69#8, 0x92#8, 0x44#8, 0x8B#8, 0x20#8]
      = .ok (.vgatherdps128 ⟨0, 1, 2, some 3, .x4, 0x20#64, .ds, .a32, 8⟩)
    ∧ dec64 (0x3E#8 :: 0x67#8 :: e1) = .ok (.vgatherdps128 ⟨0, 1, 2, some 0, .x4, 0#64, .ds, .a32, 8⟩) := by decide
/-- E9 to E11: GS, base RSP with index register 4, and registers that share their low three bits. -/
theorem test_decode_e9_e10_e11 : dec64 [0x65#8, 0xC4#8, 0xE2#8, 0x49#8, 0x92#8, 0x24#8, 0x29#8]
      = .ok (.vgatherdps128 ⟨4, 5, 6, some 1, .x1, 0#64, .gs, .a64, 7⟩)
    ∧ dec64 [0xC4#8, 0xE2#8, 0x69#8, 0x92#8, 0x44#8, 0xE4#8, 0x08#8]
      = .ok (.vgatherdps128 ⟨0, 4, 2, some 4, .x8, 8#64, .ss, .a64, 7⟩)
    ∧ dec64 [0xC4#8, 0x62#8, 0x69#8, 0x92#8, 0x0C#8, 0x88#8]
      = .ok (.vgatherdps128 ⟨9, 1, 2, some 0, .x4, 0#64, .ds, .a64, 6⟩) := by decide
/-- The same strings in 32-bit mode: a negative displacement has 32 bits, E4 is another instruction, `vvvv` bit 3 goes
by `CFG.MODE32_VVVV3`. -/
theorem test_decode_mode32 : dec32 e1 = .ok (.vgatherdps128 ⟨0, 1, 2, some 0, .x4, 0#64, .ds, .a32, 6⟩)
    ∧ dec32 e4 = .reject .notVexOutside64
    ∧ dec32 [0xC4#8, 0xE2#8, 0x3D#8, 0x92#8, 0x74#8, 0x3D#8, 0xFC#8]
      = .ok (.vgatherdps256 ⟨6, 7, 0, some 5, .x1, 0xFFFFFFFC#64, .ss, .a32, 7⟩)
    ∧ decode .mode32 true .ud [0xC4#8, 0xE2#8, 0x3D#8, 0x92#8, 0x74#8, 0x3D#8, 0x00#8] = .ud := by decide
/-- X5 to X11: the illegal forms the decoder answers #UD to. -/
theorem test_decode_ud : dec64 [0xC4#8, 0xE2#8, 0x69#8, 0x92#8, 0xC1#8] = .ud
    ∧ dec64 [0xC4#8, 0xE2#8, 0x69#8, 0x92#8, 0x00#8] = .ud
    ∧ dec64 [0xC4#8, 0xE2#8, 0x69#8, 0x92#8, 0x05#8, 0x00#8, 0x10#8, 0x00#8, 0x00#8] = .ud
    ∧ dec32 (0x67#8 :: e1) = .ud ∧ dec64 (0xF0#8 :: e1) = .ud ∧ dec64 (0x66#8 :: e1) = .ud
    ∧ dec64 (0x48#8 :: e1) = .ud ∧ dec32 (0x48#8 :: e1) = .reject .notVex := by decide
/-- R109: not enabled, nothing after the opcode is read; but another map or `W = 1` is still out of scope (R107). -/
theorem test_decode_not_enabled : decode .mode64 false .ignored [0xC4#8, 0xE2#8, 0x69#8, 0x92#8] = .ud
    ∧ dec64 [0xC4#8, 0xE2#8, 0x69#8, 0x92#8] = .reject .truncated
    ∧ decode .real false .ignored [0x3E#8, 0xC4#8, 0xE2#8, 0x69#8, 0x92#8] = .ud
    ∧ decode .mode64 false .ignored [0xC4#8, 0xE2#8, 0xE9#8, 0x92#8] = .reject .wideForm := by decide
/-- Y1 to Y6: strings that are not in scope. -/
theorem test_decode_not_in_scope : dec64 [0xC4#8, 0xE2#8, 0xE9#8, 0x92#8, 0x04#8, 0x88#8] = .reject .wideForm
    ∧ dec64 [0xC4#8, 0xE2#8, 0x68#8, 0x92#8, 0x04#8, 0x88#8] = .reject .otherMap
    ∧ dec64 [0xC4#8, 0xE1#8, 0x69#8, 0x92#8, 0x04#8, 0x88#8] = .reject .otherMap
    ∧ dec64 [0xC4#8, 0xE2#8, 0x69#8, 0x91#8, 0x04#8, 0x88#8] = .reject .otherOpcode
    ∧ dec64 [0xC5#8, 0xE9#8, 0x92#8, 0x04#8, 0x88#8] = .reject .notVex
    ∧ dec64 (0x67#8 :: 0x67#8 :: e1) = .reject .repeatedAddressSize := by decide
/-- The encoder writes the spec's bytes for E1 to E4 and E9. -/
theorem test_encode : encode .mode64 (.vgatherdps128 ⟨0, 1, 2, some 0, .x4, 0#64, .ds, .a64, 6⟩) = e1
    ∧ encode .mode64 (.vgatherdps256 ⟨0, 1, 2, some 7, .x4, 0#64, .ds, .a64, 6⟩) = e2
    ∧ encode .mode64 (.vgatherqps256 ⟨3, 4, 5, some 3, .x1, 0x10#64, .ds, .a64, 7⟩) = e3
    ∧ encode .mode64 (.vgatherqps128 ⟨9, 10, 11, some 12, .x8, 0xFFFFFFFFFFFFFFFC#64, .ds, .a64, 7⟩) = e4
    ∧ encode .mode64 (.vgatherdps128 ⟨4, 5, 6, some 1, .x1, 0#64, .gs, .a64, 7⟩)
      = [0x65#8, 0xC4#8, 0xE2#8, 0x49#8, 0x92#8, 0x24#8, 0x29#8] := by decide
/-- The opcode table's match words, as numbers with the first byte lowest (R110). -/
theorem test_table_words : (decodeTableWord 40 0x04920102C4).map Instr.form = some .dps128
    ∧ (decodeTableWord 40 0x04920502C4).map Instr.form = some .dps256
    ∧ (decodeTableWord 40 0x04930102C4).map Instr.form = some .qps128
    ∧ (decodeTableWord 40 0x04930502C4).map Instr.form = some .qps256 := by decide

/-! ## One step, from the vectors T1 to T19 -/

/-- Destination, mask and `pc` of the next state. -/
def seen (o : Host.Outcome State Fault Refusal) (dest mask : Fin 16) : Option (List Nat × List Nat × Qword) :=
  (nextOf o).map (fun t => (elems (t.vreg dest), elems (t.vreg mask), t.pc))

/-- T1: word E1, a partial mask. -/
def sT1 : State :=
  { load (base64 e1) 0 0x1000 0 1 2 [0xAAAAAAAA, 0xBBBBBBBB, 0xCCCCCCCC, 0xDDDDDDDD, 1, 2, 3, 4] [0, 1, 2, 3]
      [0xFFFFFFFF, 0, 0x80000000, 0x7FFFFFFF, 5] with
    mem := memOf [(0x1000, 0x3F800000), (0x1004, 0x40000000), (0x1008, 0x40400000), (0x100C, 0x40800000)] }

theorem test_step_t1 : seen (step sT1) 0 2
    = some ([0x3F800000, 0xBBBBBBBB, 0x40400000, 0xDDDDDDDD, 0, 0, 0, 0], [0, 0, 0, 0, 0, 0, 0, 0],
        0x400006#64) := by decide

/-- T2: word E2, all eight elements. -/
def gT2 : Gather := ⟨0, 1, 2, some 7, .x4, 0#64, .ds, .a64, 6⟩
def sT2 : State :=
  { load (base64 e2) 7 0x2000 0 1 2 [9, 9, 9, 9, 9, 9, 9, 9] [7, 6, 5, 4, 3, 2, 1, 0]
      (List.replicate 8 0x80000000) with
    mem := memOf ((List.range 8).map (fun k => (0x2000 + 4 * k, 0x41000000 + k))) }

/-- T2, and R132, R133 (D29): with `CFG.VLMAX = 512` the bits above 255 of destination and mask are zeroed too. -/
theorem test_step_t2 : seen (step sT2) 0 2
    = some ([0x41000007, 0x41000006, 0x41000005, 0x41000004, 0x41000003, 0x41000002, 0x41000001, 0x41000000],
        [0, 0, 0, 0, 0, 0, 0, 0], 0x400006#64)
    ∧ (nextOf (step { load (wide (base64 e2)) 7 0x2000 0 1 2 (List.replicate 16 9) [7, 6, 5, 4, 3, 2, 1, 0]
        (List.replicate 16 0x80000000) with mem := sT2.mem })).map
      (fun t => (elems (t.vreg 0), upper (t.vreg 0), (t.vreg 0).width, t.vreg 2))
    = some ([0x41000007, 0x41000006, 0x41000005, 0x41000004, 0x41000003, 0x41000002, 0x41000001, 0x41000000],
        List.replicate 8 0, 512, ⟨512, 0⟩) := by decide +kernel

/-- T3: word E4, a negative qword index and a negative displacement. -/
def gT3 : Gather := ⟨9, 10, 11, some 12, .x8, 0xFFFFFFFFFFFFFFFC#64, .ds, .a64, 7⟩
def sT3 : State :=
  { load (base64 e4) 12 0x3000 9 10 11 [0x11111111, 0x22222222, 0x33333333, 0x44444444, 5, 6, 7, 8]
      [2, 0, 0xFFFFFFFD, 0xFFFFFFFF] [0x80000000, 0xFFFFFFFF, 0xFFFFFFFF, 0, 1] with
    mem := memOf [(0x2FE4, 0x7FC00001), (0x300C, 0xC0A00000)] }

theorem test_step_t3 : seen (step sT3) 9 11
    = some ([0xC0A00000, 0x7FC00001, 0, 0, 0, 0, 0, 0], [0, 0, 0, 0, 0, 0, 0, 0], 0x400007#64) := by decide

/-- T4: word E3, a misaligned element and an inactive one. -/
def gT4 : Gather := ⟨3, 4, 5, some 3, .x1, 0x10#64, .ds, .a64, 7⟩
def sT4 : State :=
  { load (base64 e3) 3 0x4000 3 4 5 [1, 2, 3, 4, 0xFFFFFFFF, 0xFFFFFFFF, 0xFFFFFFFF, 0xFFFFFFFF]
      [0, 0, 0x100, 0, 0xFFFFFFF0, 0xFFFFFFFF, 7, 0]
      [0x80000000, 0, 0x80000000, 0x80000000, 0xFFFFFFFF, 0xFFFFFFFF, 0xFFFFFFFF, 0xFFFFFFFF] with
    mem := memOf [(0x4000, 1), (0x4010, 0x3F000000), (0x4017, 0x12345678)] }

theorem test_step_t4 : seen (step sT4) 3 5
    = some ([0x3F000000, 2, 1, 0x12345678, 0, 0, 0, 0], [0, 0, 0, 0, 0, 0, 0, 0], 0x400007#64) := by decide

/-- T8 on the 256-bit form: with a 32-bit address size only the low 32 bits of a qword index count. -/
theorem test_step_t8 : seen (step
      { load (base64 [0x67#8, 0xC4#8, 0xE2#8, 0x6D#8, 0x93#8, 0x04#8, 0x88#8]) 0 0x5000 0 1 2 [] [2, 0x12345678]
          [0x80000000] with mem := memOf [(0x5008, 0xCAFEF00D)] }) 0 2
    = some ([0xCAFEF00D, 0, 0, 0, 0, 0, 0, 0], [0, 0, 0, 0, 0, 0, 0, 0], 0x400007#64) := by decide

/-- T13: a page fault at element 2. -/
def sT13 : State :=
  { load (base64 e1) 0 0x1000 0 1 2
      [0xAAAAAAAA, 0xBBBBBBBB, 0xCCCCCCCC, 0xDDDDDDDD, 0x55555555, 0x55555555, 0x55555555, 0x55555555]
      [0, 0x400, 0x800, 0xC00] [0x80000001, 0x80000002, 0x80000003, 0x80000004] with
    mem := memOf [(0x1000, 0x3F800000), (0x2000, 0x40000000), (0x3000, 0x40400000), (0x4000, 0x40800000)]
    trans := [absent 0x3000 4]
    cpl := 3#2 }

/-- The faulting bytes of element 2 in T13. -/
def pfT13 : ElemExc := .pf [(0x3000#64, 4#32), (0x3001#64, 4#32), (0x3002#64, 4#32), (0x3003#64, 4#32)]

/-- Draws for a test: `LEFTSET` empty or everything, the tail draws, the first faulting byte. -/
def draw (left zeroDest zeroMask : Bool) : Draws :=
  { left := fun _ => left, zeroDest := zeroDest, zeroMask := zeroMask, keep := fun _ => false, pick := 0 }

/-- What a fault exit of a form leaves under given draws: destination, mask, `cr2` and the record. -/
def exitOf (d : Draws) (f : Form) (g : Gather) (s : State) :
    Option (List Nat × List Nat × Qword × Option Delivered) :=
  (faulting f g s).map (fun p =>
    let t := faultExitWith d f g s p.1 p.2
    (elems (t.vreg g.dest), elems (t.vreg g.mask), t.cr2, t.exc))

/-- T13's table: the first and the last row. -/
theorem test_fault_t13 :
    exitOf (draw false true true) .dps128 g1 sT13
      = some ([0x3F800000, 0x40000000, 0xCCCCCCCC, 0xDDDDDDDD, 0, 0, 0, 0],
          [0, 0, 0xFFFFFFFF, 0xFFFFFFFF, 0, 0, 0, 0], 0x3000#64, some ⟨14, some 4#32, .fault, 0x400000#64, true⟩)
    ∧ exitOf (draw true false false) .dps128 g1 sT13
      = some ([0x3F800000, 0x40000000, 0xCCCCCCCC, 0x40800000, 0x55555555, 0x55555555, 0x55555555, 0x55555555],
          [0, 0, 0xFFFFFFFF, 0, 0, 0, 0, 0], 0x3000#64, some ⟨14, some 4#32, .fault, 0x400000#64, true⟩) := by
  decide

/-- T14's record: `vgatherqps xmm0, [rax+xmm1*1], xmm2`, a page fault at element 0. -/
def gT14 : Gather := ⟨0, 1, 2, some 0, .x1, 0#64, .ds, .a64, 6⟩
def sT14 : State :=
  { load (base64 [0xC4#8, 0xE2#8, 0x69#8, 0x93#8, 0x04#8, 0x08#8]) 0 0x6000 0 1 2 [1, 2, 3, 4, 5, 6, 7, 8]
      [0x100000, 0, 8, 0] [0x80000000, 0x80000000, 0x80000000, 0x12345678] with
    mem := memOf [(0x6008, 0x0BADF00D)]
    trans := [absent 0x106000 4] }

/-- T14's table: rows 2 and 7. -/
theorem test_fault_t14 :
    (exitOf (draw false true false) .qps128 gT14 sT14).map (fun r => (r.1, r.2.1))
      = some ([1, 2, 0, 0, 0, 0, 0, 0], [0xFFFFFFFF, 0xFFFFFFFF, 0xFFFFFFFF, 0, 0, 0, 0, 0])
    ∧ (exitOf (draw true false true) .qps128 gT14 sT14).map (fun r => (r.1, r.2.1))
      = some ([1, 0x0BADF00D, 3, 4, 5, 6, 7, 8], [0xFFFFFFFF, 0, 0, 0, 0, 0, 0, 0]) := by decide

/-- T19 on the 256-bit form: the segment limit cuts off element 2; elements 0 and 1 are loaded. -/
def gT19 : Gather := ⟨0, 1, 2, some 0, .x4, 0#64, .ds, .a32, 6⟩
def sT19 : State :=
  { load (base32 [0xC4#8, 0xE2#8, 0x6D#8, 0x92#8, 0x04#8, 0x88#8]) 0 0xFFF8 0 1 2 [9, 9, 9, 9, 9, 9, 9, 9]
      [0, 1, 2, 3] [0xFFFFFFFF, 0xFFFFFFFF, 0xFFFFFFFF, 0xFFFFFFFF] with
    mem := memOf [(0x1FFF8, 0x11111111), (0x1FFFC, 0x22222222)]
    segs := State.reset.segs.set 3 (Segment.atReset 0x10000#64) }

/-- T19, and R143 with `CFG.VLMAX = 512`: the bits above 255 of destination and mask are zero or old, each by its draw. -/
theorem test_fault_t19 : exitOf (draw true true true) .dps256 gT19 sT19
    = some ([0x11111111, 0x22222222, 9, 9, 9, 9, 9, 9], [0, 0, 0xFFFFFFFF, 0xFFFFFFFF, 0, 0, 0, 0], 0#64,
        some ⟨13, some 0#32, .fault, 0x400000#64, true⟩)
    ∧ (let s : State :=
      { load (wide (base32 [])) 0 0xFFF8 0 1 2 (List.replicate 16 9) [0, 1, 2, 3] (List.replicate 16 0xFFFFFFFF) with
        mem := sT19.mem
        segs := sT19.segs };
      let tails := fun d =>
        (faulting .dps256 gT19 s).map (fun p =>
          let t := faultExitWith d .dps256 gT19 s p.1 p.2
          (upper (t.vreg 0), upper (t.vreg 2)));
      tails (draw false true false) = some (List.replicate 8 0, List.replicate 8 0xFFFFFFFF)
        ∧ tails (draw false false true) = some (List.replicate 8 9, List.replicate 8 0)) := by decide +kernel

/-! ## Witnesses: concrete operands that meet the hypotheses of each obligation, one per clause where there are several

Encoding. -/

/-- Well-formed instructions at the boundaries: registers 15, no base, every displacement size, both prefixes. -/
theorem witness_decodeOfEncode :
    (Instr.vgatherqps256 ⟨15, 14, 13, some 13, .x8, 0xFFFFFFFF80000000#64, .gs, .a64, 11⟩).wf .mode64 = true
    ∧ (Instr.vgatherdps128 ⟨1, 2, 3, none, .x2, 0xFFFFFFFF#64, .fs, .a32, 12⟩).wf .mode64 = true
    ∧ (Instr.vgatherqps128 ⟨7, 6, 5, some 4, .x1, 0xFFFFFF80#64, .gs, .a32, 8⟩).wf .mode32 = true
    ∧ (Instr.vgatherdps256 ⟨0, 1, 2, some 7, .x4, 0#64, .ds, .a64, 6⟩).wf .mode64 = true := by decide
theorem witness_encodedBytes : (Instr.vgatherqps128 ⟨9, 10, 11, some 12, .x8, 0#64, .ds, .a64, 6⟩).wf .mode64 = true :=
  by decide
theorem witness_decodedIsWellFormed : decode .mode64 true .ignored e4 = .ok (.vgatherqps128 gT3)
    ∧ (Instr.vgatherqps128 gT3).gather.overlaps = false := by decide
/-- The shortest and the longest encoding. -/
theorem witness_decodedLength : decode .mode64 true .ud e1 = .ok (.vgatherdps128 g1)
    ∧ decode .mode64 true .ignored [0x67#8, 0x65#8, 0xC4#8, 0xE2#8, 0x61#8, 0x92#8, 0x0C#8, 0x55#8, 0x40#8, 0x23#8, 0x01#8,
        0x00#8] = .ok (.vgatherdps128 ⟨1, 2, 3, none, .x2, 0x12340#64, .gs, .a32, 12⟩) := by decide
theorem witness_mode32Registers : decode .mode32 true .ud e1 = .ok (.vgatherdps128 g1m32)
    ∧ decode .mode32 true .ignored [0xC4#8, 0xE2#8, 0x29#8, 0x92#8, 0x04#8, 0x88#8] = .ok (.vgatherdps128 g1m32) := by decide
/-- First clause of the refusals: Y1 to Y4, alone, after admitted legacy bytes, after a forbidden byte (66H, REX), and, in
32-bit mode, a second byte whose bits 7:6 are not 11b. -/
theorem witness_neighbouring :
    (base64 [0xC4#8, 0xE1#8, 0x69#8, 0x92#8, 0x04#8, 0x88#8]).fetch
      = .ok ([] ++ [] ++ 0xC4#8 :: 0xE1#8 :: 0x69#8 :: 0x92#8 :: [0x04#8, 0x88#8])
    ∧ (base64 [0x65#8, 0x67#8, 0x66#8, 0xC4#8, 0xE2#8, 0xE9#8, 0x92#8, 0x04#8, 0x88#8]).fetch
      = .ok ([0x65#8, 0x67#8] ++ [0x66#8] ++ 0xC4#8 :: 0xE2#8 :: 0xE9#8 :: 0x92#8 :: [0x04#8, 0x88#8])
    ∧ (base64 [0x4F#8, 0xC4#8, 0xE2#8, 0x68#8, 0x92#8]).fetch
      = .ok ([] ++ [0x4F#8] ++ 0xC4#8 :: 0xE2#8 :: 0x68#8 :: 0x92#8 :: [])
    ∧ admittedLegacy [] = true ∧ admittedLegacy [0x65#8, 0x67#8] = true
    ∧ forbiddenByte (base64 []).mode 0x66#8 ∧ forbiddenByte (base64 []).mode 0x4F#8
    ∧ (base64 [0xC4#8, 0xE1#8, 0x69#8, 0x92#8, 0x04#8, 0x88#8]).exc = none
    ∧ (0xE1#8).extractLsb' 0 5 ≠ 2#5 ∧ (0x68#8).extractLsb' 0 2 ≠ 1#2
    ∧ ((0x91#8 : Byte) ≠ 0x92#8 ∧ (0x91#8 : Byte) ≠ 0x93#8) ∧ (0xE9#8).extractLsb' 7 1 = 1#1
    ∧ (base32 e4).fetch = .ok ([] ++ [] ++ 0xC4#8 :: 0x02#8 :: 0x21#8 :: 0x93#8 :: [0x4C#8, 0xD4#8, 0xFC#8])
    ∧ (base32 e4).exc = none ∧ (base32 e4).mode ≠ .mode64 ∧ (0x02#8).extractLsb' 6 2 ≠ 3#2 := by decide
/-- Second clause: Y6 (67H twice), and two segment overrides. -/
theorem witness_repeatedPrefix : (base64 (0x67#8 :: 0x67#8 :: e1)).fetch = .ok ([0x67#8] ++ 0x67#8 :: e1)
    ∧ admittedLegacy [0x67#8] = true ∧ 0x67#8 ∈ [0x67#8]
    ∧ (base64 (0x3E#8 :: 0x65#8 :: e1)).fetch = .ok ([0x3E#8] ++ 0x65#8 :: e1)
    ∧ admittedLegacy [0x3E#8] = true ∧ (segOfByte 0x65#8).isSome = true
    ∧ (∃ b' ∈ [0x3E#8], (segOfByte b').isSome = true)
    ∧ (base64 (0x67#8 :: 0x67#8 :: e1)).exc = none ∧ (base64 (0x3E#8 :: 0x65#8 :: e1)).exc = none := by decide
/-- Third clause: Y5 (the two-byte escape C5H), a byte that is REX in 64-bit mode only, and a forbidden byte before another
prefix. -/
theorem witness_otherEscape : (base64 [0xC5#8, 0xE9#8, 0x92#8, 0x04#8, 0x88#8]).fetch
      = .ok ([] ++ [] ++ 0xC5#8 :: [0xE9#8, 0x92#8, 0x04#8, 0x88#8])
    ∧ (base64 [0xC5#8, 0xE9#8, 0x92#8, 0x04#8, 0x88#8]).exc = none
    ∧ (0xC5#8 : Byte) ≠ 0xC4#8 ∧ (0xC5#8 : Byte) ≠ 0x67#8 ∧ segOfByte 0xC5#8 = none
    ∧ ¬ forbiddenByte (base64 []).mode 0xC5#8
    ∧ (base32 (0x48#8 :: e1)).fetch = .ok ([] ++ [] ++ 0x48#8 :: e1) ∧ (base32 (0x48#8 :: e1)).exc = none
    ∧ (0x48#8 : Byte) ≠ 0xC4#8 ∧ (0x48#8 : Byte) ≠ 0x67#8 ∧ segOfByte 0x48#8 = none
    ∧ ¬ forbiddenByte (base32 []).mode 0x48#8
    ∧ (base64 (0xF0#8 :: 0x67#8 :: e1)).fetch = .ok ([] ++ [0xF0#8] ++ 0x67#8 :: e1)
    ∧ (base64 (0xF0#8 :: 0x67#8 :: e1)).exc = none ∧ forbiddenByte (base64 []).mode 0xF0#8 := by decide

/-! The step. -/

theorem witness_stepRuns : sT1.exc = none ∧ sT1.fetch = .ok e1 ∧ sT1.decodeAt e1 = .ok (.vgatherdps128 g1) := by decide
theorem witness_stepTakesUd : (base64 (0xF0#8 :: e1)).exc = none ∧ (base64 (0xF0#8 :: e1)).fetch = .ok (0xF0#8 :: e1)
    ∧ (base64 (0xF0#8 :: e1)).decodeAt (0xF0#8 :: e1) = .ud := by decide

/-- A page fault delivered at 400000H. -/
def faulted : Delivered := ⟨14, some 4#32, .fault, 0x400000#64, true⟩

theorem witness_stepContinues :
    ({ sT13 with exc := some faulted, handlers := [[.setTrans []]] } : State).exc = some faulted
    ∧ ({ sT13 with exc := some faulted, handlers := [[.setTrans []]] } : State).handlers = [.setTrans []] :: [] := by
  decide
theorem witness_unhandled : ({ sT13 with exc := some faulted } : State).exc = some faulted
    ∧ ({ sT13 with exc := some faulted } : State).handlers = [] := by decide
/-- A program that ends at the last address, and one that ends just below it, with `pc` at its end. -/
theorem witness_stepStops :
    (let s : State := { base64 e1 with prog := { base := 0xFFFFFFFFFFFFFFFA#64, bytes := e1 } };
      s.exc = none ∧ s.prog.wraps s.mode = true)
    ∧ (let s : State :=
        { base64 e1 with prog := { base := 0xFFFFFFFFFFFFFFF9#64, bytes := e1 }, pc := 0xFFFFFFFFFFFFFFFF#64 };
      s.exc = none ∧ s.prog.wraps s.mode = false ∧ s.pc = s.prog.base + BitVec.ofNat 64 s.prog.bytes.length) := by
  decide

/-! #UD and #NM. -/

theorem witness_overlap : sT1.mode ≠ .code16
    ∧ (Instr.vgatherdps128 { g1 with dest := 1 }).gather.dest = (Instr.vgatherdps128 { g1 with dest := 1 }).gather.index
    ∧ (Instr.vgatherdps256 { g1 with dest := 2 }).gather.dest = (Instr.vgatherdps256 { g1 with dest := 2 }).gather.mask
    ∧ (Instr.vgatherqps256 { g1 with index := 2 }).gather.index
        = (Instr.vgatherqps256 { g1 with index := 2 }).gather.mask := by decide
/-- X5 and X6. -/
theorem witness_withoutSib : (base64 [0xC4#8, 0xE2#8, 0x69#8, 0x92#8, 0xC1#8]).exc = none
    ∧ (base64 [0xC4#8, 0xE2#8, 0x69#8, 0x92#8, 0xC1#8]).fetch = .ok ([] ++ 0xC4#8 :: 0xE2#8 :: 0x69#8 :: 0x92#8 :: 0xC1#8 :: [])
    ∧ (base64 [0xC4#8, 0xE2#8, 0x69#8, 0x92#8, 0x00#8]).fetch = .ok ([] ++ 0xC4#8 :: 0xE2#8 :: 0x69#8 :: 0x92#8 :: 0x00#8 :: [])
    ∧ (base64 [0x67#8, 0xC4#8, 0xE2#8, 0x69#8, 0x92#8, 0x00#8]).fetch
      = .ok ([0x67#8] ++ 0xC4#8 :: 0xE2#8 :: 0x69#8 :: 0x92#8 :: 0x00#8 :: [])
    ∧ admittedLegacy [] = true ∧ admittedLegacy [0x67#8] = true
    ∧ headOk (base64 [0xC4#8, 0xE2#8, 0x69#8, 0x92#8, 0xC1#8]).mode 0xE2#8 0x69#8 0x92#8 = true
    ∧ (0xC1#8).extractLsb' 6 2 = 3#2 ∧ (0x00#8).extractLsb' 0 3 ≠ 4#3 := by decide
/-- The three shapes of the legacy bytes; nothing follows the opcode. -/
theorem witness_sixteenBit : (base32 [0x67#8, 0xC4#8, 0xE2#8, 0x69#8, 0x92#8]).exc = none
    ∧ (base32 [0x67#8, 0xC4#8, 0xE2#8, 0x69#8, 0x92#8]).mode = .mode32
    ∧ (base32 [0x67#8, 0xC4#8, 0xE2#8, 0x69#8, 0x92#8]).fetch
      = .ok ([0x67#8] ++ 0xC4#8 :: 0xE2#8 :: 0x69#8 :: 0x92#8 :: [])
    ∧ (base32 [0x3E#8, 0x67#8, 0xC4#8, 0xE2#8, 0x69#8, 0x92#8]).fetch
      = .ok ([0x3E#8, 0x67#8] ++ 0xC4#8 :: 0xE2#8 :: 0x69#8 :: 0x92#8 :: [])
    ∧ (base32 [0x67#8, 0x3E#8, 0xC4#8, 0xE2#8, 0x69#8, 0x92#8]).fetch
      = .ok ([0x67#8, 0x3E#8] ++ 0xC4#8 :: 0xE2#8 :: 0x69#8 :: 0x92#8 :: [])
    ∧ (segOfByte 0x3E#8).isSome = true ∧ headOk .mode32 0xE2#8 0x69#8 0x92#8 = true := by decide
/-- LOCK, and the first and the last REX byte. -/
theorem witness_forbidden : (base64 (0xF0#8 :: e1)).exc = none
    ∧ (base64 (0xF0#8 :: e1)).fetch = .ok ([] ++ 0xF0#8 :: 0xC4#8 :: 0xE2#8 :: 0x69#8 :: 0x92#8 :: [0x04#8, 0x88#8])
    ∧ (base64 (0x40#8 :: e1)).fetch = .ok ([] ++ 0x40#8 :: 0xC4#8 :: 0xE2#8 :: 0x69#8 :: 0x92#8 :: [0x04#8, 0x88#8])
    ∧ admittedLegacy [] = true ∧ admittedLegacy [0x3E#8] = true
    ∧ (base64 (0x3E#8 :: 0x4F#8 :: e1)).fetch = .ok ([0x3E#8] ++ 0x4F#8 :: 0xC4#8 :: 0xE2#8 :: 0x69#8 :: 0x92#8 :: [0x04#8, 0x88#8])
    ∧ forbiddenByte (base64 (0xF0#8 :: e1)).mode 0xF0#8 ∧ forbiddenByte (base64 (0x40#8 :: e1)).mode 0x40#8
    ∧ forbiddenByte (base64 (0x40#8 :: e1)).mode 0x4F#8
    ∧ headOk (base64 (0xF0#8 :: e1)).mode 0xE2#8 0x69#8 0x92#8 = true := by decide
/-- A 16-bit code segment of protected mode, by the bits of R33 and R101. -/
abbrev sixteenBit (s : State) : Prop :=
  s.ctl.pe = true ∧ s.flags.vm = false ∧ ¬ (s.ctl.lma = true ∧ s.ctl.csL = true) ∧ s.ctl.csD = false

/-- Each cause alone; the last two are the reset state and virtual-8086 mode, with the other mode bits left as they are. -/
theorem witness_notEnabled :
    (let s : State := { sT1 with cfg := { sT1.cfg with avx2 := false } };
      ¬ sixteenBit s ∧ s.cfg.avx2 = false)
    ∧ (let s : State := { sT1 with ctl := { sT1.ctl with osxsave := false } };
      ¬ sixteenBit s ∧ s.ctl.osxsave = false)
    ∧ (let s : State := { sT1 with ctl := { sT1.ctl with sse := false } };
      ¬ sixteenBit s ∧ s.ctl.sse = false)
    ∧ (let s : State := { sT1 with ctl := { sT1.ctl with avx := false } };
      ¬ sixteenBit s ∧ s.ctl.avx = false)
    ∧ ¬ sixteenBit State.reset ∧ State.reset.ctl.pe = false
    ∧ (let s : State := { sT1 with flags := { sT1.flags with vm := true } };
      ¬ sixteenBit s ∧ s.flags.vm = true) := by decide
/-- For the clauses about a step: the bytes of word E1 cut off after its opcode, and with two legacy bytes before it. -/
theorem witness_notEnabled_step :
    (let s : State :=
      { base64 (e1.take 4) with ctl := { (base64 []).ctl with osxsave := false } };
      ¬ sixteenBit s ∧ s.ctl.osxsave = false ∧ s.exc = none ∧ admittedLegacy [] = true
        ∧ (s.ctl.pe = true ∧ s.flags.vm = false ∧ s.ctl.lma = true ∧ s.ctl.csL = true)
        ∧ s.fetch = .ok ([] ++ 0xC4#8 :: 0xE2#8 :: 0x69#8 :: 0x92#8 :: []))
    ∧ (let s : State :=
      { base64 (0x3E#8 :: 0x67#8 :: e1) with ctl := Control.atReset };
      ¬ sixteenBit s ∧ s.ctl.pe = false ∧ s.exc = none ∧ admittedLegacy [0x3E#8, 0x67#8] = true
        ∧ s.fetch = .ok ([0x3E#8, 0x67#8] ++ 0xC4#8 :: 0xE2#8 :: 0x69#8 :: 0x92#8 :: [0x04#8, 0x88#8]))
    ∧ (0xE2#8).extractLsb' 6 2 = 3#2 ∧ headBits 0xE2#8 0x69#8 0x92#8 = true := by decide
/-- In 64-bit mode and in 32-bit mode. -/
theorem witness_taskSwitched :
    (let s : State := { sT1 with ctl := { sT1.ctl with ts := true } };
      s.ctl.pe = true ∧ s.flags.vm = false ∧ (s.ctl.lma = true ∧ s.ctl.csL = true) ∧ s.cfg.avx2 = true
        ∧ s.ctl.osxsave = true ∧ s.ctl.sse = true ∧ s.ctl.avx = true ∧ s.ctl.ts = true)
    ∧ (let s : State := { sT1 with ctl := { control32 with ts := true } };
      s.ctl.pe = true ∧ s.flags.vm = false ∧ s.ctl.csD = true ∧ s.cfg.avx2 = true
        ∧ s.ctl.osxsave = true ∧ s.ctl.sse = true ∧ s.ctl.avx = true ∧ s.ctl.ts = true)
    ∧ (Instr.vgatherdps128 g1).gather.overlaps = false := by decide
/-- L = 1 without LMA is no 64-bit mode. -/
theorem witness_sixteenBitCode :
    (let s : State := { sT1 with ctl := { control32 with csD := false, csL := true } };
      sixteenBit s ∧ s.exc = none) := by decide
/-- R33, R101: each mode from its bits; CS.L and CS.D are not exchanged. -/
theorem test_modes : modeOf { control32 with lma := true, csL := true, csD := false } false = .mode64
    ∧ modeOf { control32 with lma := true } false = .mode32 ∧ modeOf control32 false = .mode32
    ∧ modeOf { control32 with csD := false } false = .code16 ∧ modeOf control32 true = .v8086
    ∧ modeOf { control32 with pe := false } false = .real := by decide

/-! Results and completion. -/

/-- The four bytes at a linear address map to themselves, outside `IoAddrs`, and hold the value. -/
abbrev gathers (s : State) (la : Qword) (val : Dword) : Prop :=
  ∀ b, b < 4 → s.translate (wrapLinear s.mode (la + BitVec.ofNat 64 b)) = .phys (la + BitVec.ofNat 64 b)
    ∧ s.isIo (la + BitVec.ofNat 64 b) = false
    ∧ val.extractLsb' (8 * b) 8 = s.mem.read (la + BitVec.ofNat 64 b).toNat

/-- The linear addresses and values of the active elements of T1 to T4. -/
theorem witness_dps128 : sT1.ready g1 ∧
    ∀ j, j < 4 → (sT1.vreg g1.mask).bits.getLsbD (32 * j + 31) = true →
      lin sT1 g1.seg (truncA g1.asize
          (baseValue g1 sT1 + (elem32 (sT1.vreg g1.index) j).signExtend 64 * scaleValue g1.scale + g1.disp))
        = .ok (BitVec.ofNat 64 (0x1000 + 4 * j))
        ∧ gathers sT1 (BitVec.ofNat 64 (0x1000 + 4 * j)) (if j = 0 then 0x3F800000#32 else 0x40400000#32) := by decide
theorem witness_dps256 : sT2.ready gT2 ∧
    ∀ j, j < 8 → (sT2.vreg gT2.mask).bits.getLsbD (32 * j + 31) = true →
      lin sT2 gT2.seg (truncA gT2.asize
          (baseValue gT2 sT2 + (elem32 (sT2.vreg gT2.index) j).signExtend 64 * scaleValue gT2.scale + gT2.disp))
        = .ok (BitVec.ofNat 64 (0x201C - 4 * j))
        ∧ gathers sT2 (BitVec.ofNat 64 (0x201C - 4 * j)) (BitVec.ofNat 32 (0x41000007 - j)) := by decide
theorem witness_qps128 : sT3.ready gT3 ∧
    ∀ j, j < 2 → (sT3.vreg gT3.mask).bits.getLsbD (32 * j + 31) = true →
      lin sT3 gT3.seg (truncA gT3.asize
          (baseValue gT3 sT3 + elem64 (sT3.vreg gT3.index) j * scaleValue gT3.scale + gT3.disp))
        = .ok (if j = 0 then 0x300C#64 else 0x2FE4#64)
        ∧ gathers sT3 (if j = 0 then 0x300C#64 else 0x2FE4#64) (if j = 0 then 0xC0A00000#32 else 0x7FC00001#32) := by decide
theorem witness_qps256 : sT4.ready gT4 ∧
    ∀ j, j < 4 → (sT4.vreg gT4.mask).bits.getLsbD (32 * j + 31) = true →
      lin sT4 gT4.seg (truncA gT4.asize
          (baseValue gT4 sT4 + elem64 (sT4.vreg gT4.index) j * scaleValue gT4.scale + gT4.disp))
        = .ok (if j = 0 then 0x4010#64 else if j = 2 then 0x4000#64 else 0x4017#64)
        ∧ gathers sT4 (if j = 0 then 0x4010#64 else if j = 2 then 0x4000#64 else 0x4017#64) (if j = 0 then 0x3F000000#32 else if j = 2 then 1#32 else 0x12345678#32) := by decide
/-- The premises of every statement about completion, in both modes. -/
theorem witness_completion : sT1.ready (Instr.vgatherdps128 g1).gather
    ∧ sT1.loadable (Instr.vgatherdps128 g1).form (Instr.vgatherdps128 g1).gather
    ∧ (load (base32 e1) 0 0x1000 0 1 2 [] [] [0x80000000]).ready (Instr.vgatherqps256 g1m32).gather
    ∧ (load (base32 e1) 0 0x1000 0 1 2 [] [] [0x80000000]).loadable .qps256 g1m32 := by decide
/-- T11: no mask bit set, a base that is not canonical. -/
theorem witness_emptyMask :
    (let s := load (base64 e1) 0 0x8000000000000000 0 1 2 [9, 8, 7, 6, 5, 4, 3, 2] [1, 1, 1, 1]
        [0x7FFFFFFF, 0, 1, 0x12345678, 0xFFFFFFFF];
      s.ready g1 ∧ ∀ j, j < Form.n .dps128 → (s.vreg g1.mask).bits.getLsbD (32 * j + 31) = false) := by decide

/-! Addresses and loads. -/

/-- T8's index against its low half. -/
theorem witness_qwordIndex : (gT19.asize = .a32)
    ∧ (elem64 (regOf 256 [2, 0x12345678]) 0).setWidth 32 = (elem64 (regOf 256 [2]) 0).setWidth 32 := by decide
/-- T15 (c) and (a): the last canonical element and the first one that is not; FS with a base; one significant bit. -/
theorem witness_lin64 : sT1.ctl.pe = true ∧ sT1.flags.vm = false ∧ sT1.ctl.lma = true ∧ sT1.ctl.csL = true
    ∧ 1 ≤ sT1.cfg.laBits ∧ sT1.cfg.laBits ≤ 64
    ∧ (∀ b, b < 4 → -(2 ^ (sT1.cfg.laBits - 1)) ≤ (0x00007FFFFFFFFFFC#64 + BitVec.ofNat 64 b).toInt
        ∧ (0x00007FFFFFFFFFFC#64 + BitVec.ofNat 64 b).toInt < 2 ^ (sT1.cfg.laBits - 1))
    ∧ (∃ b, b < 4 ∧ ((0x00007FFFFFFFFFFD#64 + BitVec.ofNat 64 b).toInt < -(2 ^ (sT1.cfg.laBits - 1))
        ∨ 2 ^ (sT1.cfg.laBits - 1) ≤ (0x00007FFFFFFFFFFD#64 + BitVec.ofNat 64 b).toInt))
    ∧ (∀ b, b < 4 → -(2 ^ (sT1.cfg.laBits - 1)) ≤ (0xFFFF800000000000#64 + BitVec.ofNat 64 b).toInt)
    ∧ (0xFFFF7FFFFFFFFFFF#64 : Qword).toInt < -(2 ^ (sT1.cfg.laBits - 1)) := by decide
/-- The model's answers at the same boundaries. -/
theorem test_lin64_boundary : lin sT1 .ds 0x00007FFFFFFFFFFC#64 = .ok 0x00007FFFFFFFFFFC#64
    ∧ lin sT1 .ds 0x00007FFFFFFFFFFD#64 = .error .gp0 ∧ lin sT1 .ss 0x00007FFFFFFFFFFD#64 = .error .ss0
    ∧ lin sT1 .ds 0xFFFF800000000000#64 = .ok 0xFFFF800000000000#64
    ∧ lin sT1 .ds 0xFFFF7FFFFFFFFFFF#64 = .error .gp0 := by decide
/-- T19's DS with the offsets of an expand-down segment with the limit FFFFH, and those of a wrapping one. -/
def sT19With (accepted : Range) : State :=
  { sT19 with segs := sT19.segs.set 3 { Segment.atReset 0x10000#64 with limit := .offsets [accepted] } }

/-- 32-bit mode by the bits of R33. -/
abbrev protected32 (s : State) : Prop :=
  s.ctl.pe = true ∧ s.flags.vm = false ∧ ¬ (s.ctl.lma = true ∧ s.ctl.csL = true) ∧ s.ctl.csD = true

/-- The offset in the low half of the address; the last offset whose four bytes lie inside the highest offset FFFFH, the
first whose do not; the first offset of an expand-down segment, the one below it; a null selector, a segment that cannot be
read. -/
theorem witness_lin32 : protected32 sT19 ∧ (0xFFFC#64).toNat = (0x5_0000_FFFC#64).toNat % 2 ^ 32
    ∧ (sT19.segment .ds).limit = .top 0xFFFF#32 ∧ (0xFFFC#64).toNat + 3 ≤ (0xFFFF#32).toNat
    ∧ ¬ (0xFFFD#64).toNat + 3 ≤ (0xFFFF#32).toNat
    ∧ (sT19.segment .ds).null = false ∧ (sT19.segment .ds).readable = true
    ∧ (let r : Range := { base := 0x10000#64, len := 0xFFFEFFFD };
        protected32 (sT19With r) ∧ ((sT19With r).segment .ds).limit = .offsets [r]
          ∧ (∃ r' ∈ [r], (0x10000#64 - r'.base).toNat < r'.len)
          ∧ ¬ ∃ r' ∈ [r], (0xFFFF#64 - r'.base).toNat < r'.len)
    ∧ (let s : State := { sT19 with segs := sT19.segs.set 3 { Segment.atReset 0#64 with null := true } };
        protected32 s ∧ (s.segment .ds).null = true)
    ∧ (let s : State := { sT19 with segs := sT19.segs.set 2 { Segment.atReset 0#64 with readable := false } };
        protected32 s ∧ (s.segment .ss).readable = false) := by decide
/-- The model's answers at the same boundaries. -/
theorem test_lin32_boundary : lin sT19 .ds 0xFFFC#64 = .ok 0x1FFFC#64 ∧ lin sT19 .ds 0xFFFD#64 = .error .gp0
    ∧ lin sT19 .ss 0xFFFD#64 = .error .ss0
    ∧ lin (sT19With ⟨0x10000#64, 0xFFFEFFFD⟩) .ds 0x10000#64 = .ok 0x20000#64
    ∧ lin (sT19With ⟨0x10000#64, 0xFFFEFFFD⟩) .ds 0xFFFF#64 = .error .gp0
    ∧ lin (sT19With ⟨0#64, 0x100000000⟩) .ds 0xFFFFFFFF#64 = .ok 0xFFFF#64 := by decide
/-- R33, R59: with CR0.PG = 0 a page that is listed as absent is not: the address maps to itself. -/
theorem test_paging_off : sT13.translate 0x3000#64 = .fault 4#32
    ∧ ({ sT13 with ctl := { sT13.ctl with pg := false } } : State).translate 0x3000#64 = .phys 0x3000#64 := by decide
/-- Each answer of `MemRead` occurs, at a misaligned address: T12's bytes with both pages mapped, with the second page absent,
and with a byte of it in `IoAddrs`. -/
theorem witness_memRead :
    ({ base64 e1 with mem := memOf [(0x7FFE, 0xDDCCBBAA)] } : State).memRead 0x7FFE#64
      = .ok 0xDDCCBBAA#32 [0x7FFE#64, 0x7FFF#64, 0x8000#64, 0x8001#64]
    ∧ ({ base64 e1 with trans := [absent 0x8000 4] } : State).memRead 0x7FFE#64
      = .exc (.pf [(0x8000#64, 4#32), (0x8001#64, 4#32)])
    ∧ ({ base64 e1 with io := [{ base := 0x8001#64, len := 1 }] } : State).memRead 0x7FFE#64 = .device
    ∧ ({ sT13 with ctl := { sT13.ctl with pg := false } } : State).ctl.pg = false := by decide
/-- An execution with a next state, past the checks, and one stopped by them. -/
theorem witness_executes : (∃ t, exec (.vgatherdps128 g1) sT1 = .next t) ∧ sT1.ready g1
    ∧ (∃ t, exec (.vgatherdps128 { g1 with dest := 1 }) sT1 = .next t) ∧ ¬ sT1.ready { g1 with dest := 1 } :=
  ⟨⟨_, rfl⟩, by decide, ⟨_, rfl⟩, by decide⟩
/-- Other bytes, a page that is not present and device memory, all at elements 1 and 3, which are inactive. -/
theorem witness_inactive :
    (let s' : State :=
      { sT1 with
        mem := memOf [(0x1000, 0x3F800000), (0x1004, 7), (0x1008, 0x40400000)]
        trans := [{ range := { base := 0x100C#64, len := 4 }, cpl := none, target := .fault 4#32 }]
        io := [{ base := 0x1004#64, len := 4 }] };
      sT1.ready g1 ∧ sT1.loadable .dps128 g1
        ∧ ∀ j, j < 4 → active .dps128 g1 sT1 j = true → elemLoad .dps128 g1 s' j = elemLoad .dps128 g1 sT1 j) := by
  decide
/-- T18: a device byte at an active element, and at an inactive one. -/
theorem witness_device :
    (let s : State := { sT1 with io := [{ base := 0x1008#64, len := 1 }] };
      s.ready g1 ∧ touchesDevice .dps128 g1 s = true)
    ∧ (let s : State := { sT1 with io := [{ base := 0x1004#64, len := 1 }] };
      s.ready g1 ∧ touchesDevice .dps128 g1 s = false) := by decide

/-! Fault exit. -/

theorem t13_faulting : sT13.ready g1 ∧ sT13.noDevice .dps128 g1 ∧ faulting .dps128 g1 sT13 = some (2, pfT13) := by decide

/-- What the gather of T13 does, in terms of the free values. -/
theorem t13_exec {s : State} (h : s.ready g1) (hd : s.noDevice .dps128 g1)
    (hf : faulting .dps128 g1 s = some (2, pfT13)) :
    exec (.vgatherdps128 g1) s = .next (faultExit .dps128 g1 s 2 pfT13) := by
  rw [exec_eq_gather]
  exact (gather_of_ready h hd).trans (by rw [show faulting .dps128 g1 s = _ from hf])

/-- The premises of the statements about a fault exit. -/
theorem witness_faultExit : sT13.ready (Instr.vgatherdps128 g1).gather
    ∧ sT13.noDevice (Instr.vgatherdps128 g1).form (Instr.vgatherdps128 g1).gather
    ∧ faulting (Instr.vgatherdps128 g1).form (Instr.vgatherdps128 g1).gather sT13 = some (2, pfT13) := t13_faulting
/-- T13 with another draw counter, other flags and another MXCSR, none of which is architectural (R41). -/
def sT13' : State :=
  { sT13 with draws := 7, mxcsr := 0#32, flags := { sT13.flags with cf := true, ac := true } }
theorem witness_repeatable : ∃ t t' : State, sT13.architectural = sT13'.architectural
    ∧ sT13.ready g1 ∧ sT13.noDevice .dps128 g1 ∧ faulting .dps128 g1 sT13 = some (2, pfT13)
    ∧ exec (.vgatherdps128 g1) sT13 = .next t ∧ exec (.vgatherdps128 g1) sT13' = .next t' :=
  ⟨_, _, by decide, t13_faulting.1, t13_faulting.2.1, t13_faulting.2.2,
    t13_exec t13_faulting.1 t13_faulting.2.1 t13_faulting.2.2, t13_exec (by decide) (by decide) (by decide)⟩

/-- A data breakpoint on four bytes. -/
def breakpoint (a : Qword) : PendingEvent := ⟨1, .trap, some ⟨a, 4⟩⟩
/-- An interrupt that waits for nothing in particular. -/
def waiting : PendingEvent := ⟨0x20, .interrupt, none⟩

/-- T17: T13 with a breakpoint on the faulting element and one on the last byte of element 1, and an interrupt. -/
def sT17 : State := { sT13 with pending := [breakpoint 0x3000#64, breakpoint 0x2003#64, waiting] }

/-- T17 with the breakpoint on the faulting element alone. -/
def sT17quiet : State := { sT13 with pending := [breakpoint 0x3000#64] }

/-- The faulting element is not completed, and no other element has a byte at 3000H to 3003H. -/
theorem t17_silent (s : State) (hs : s = sT17 ∨ s = sT17quiet) : ¬ reports .dps128 g1 s 2 (breakpoint 0x3000#64) := by
  rintro ⟨j, hj, hg, h | ⟨r, la, b, hr, hl, hb, hlt⟩⟩
  · cases h
  · cases hr
    have away : ∀ s ∈ [sT17, sT17quiet], ∀ j, j < 4 → ∀ b, b < 4 →
        (match lin s g1.seg (effAddr .dps128 g1 s j) with
          | .ok la => j == 2 || !decide ((wrapLinear s.mode (la + BitVec.ofNat 64 b) - 0x3000#64).toNat < 4)
          | .error _ => true) = true := by decide
    have none2 : ∀ s ∈ [sT17, sT17quiet], gathered .dps128 g1 s 2 2 = false := by decide
    have hmem : s ∈ [sT17, sT17quiet] := by simpa using hs
    have h := away s hmem j hj b hb
    simp only [hl, Bool.or_eq_true, beq_iff_eq, Bool.not_eq_true', decide_eq_false_iff_not] at h
    rcases h with rfl | h
    · rw [none2 s hmem] at hg
      cases hg
    · exact h hlt

/-- An event that is to be reported: after the silent one the breakpoint on element 1, and the interrupt. -/
theorem witness_pending_reported : sT17.ready g1 ∧ sT17.noDevice .dps128 g1
    ∧ faulting .dps128 g1 sT17 = some (2, pfT13)
    ∧ sT17.pending = [breakpoint 0x3000#64] ++ breakpoint 0x2003#64 :: [waiting]
    ∧ (∀ ev ∈ [breakpoint 0x3000#64], ¬ reports .dps128 g1 sT17 2 ev)
    ∧ reports .dps128 g1 sT17 2 (breakpoint 0x2003#64) ∧ reports .dps128 g1 sT17 2 waiting := by
  refine ⟨by decide, by decide, by decide, rfl, fun ev hev => ?_, ?_, 1, by decide, by decide, .inl rfl⟩
  · rw [List.mem_singleton.1 hev]
    exact t17_silent sT17 (.inl rfl)
  · exact ⟨1, by decide, by decide, .inr ⟨⟨0x2003#64, 4⟩, 0x2000#64, 3, rfl, by decide, by decide, by decide⟩⟩
/-- None to be reported although elements are completed, and none because no element is. -/
theorem witness_pending_silent :
    (sT17quiet.ready g1 ∧ sT17quiet.noDevice .dps128 g1 ∧ faulting .dps128 g1 sT17quiet = some (2, pfT13)
      ∧ ∀ ev ∈ sT17quiet.pending, ¬ reports .dps128 g1 sT17quiet 2 ev)
    ∧ (let s : State := { load sT13 0 0x3000 0 1 2 [] [] [0x80000000] with pending := [waiting] };
      s.ready g1 ∧ s.noDevice .dps128 g1 ∧ faulting .dps128 g1 s = some (0, pfT13)
        ∧ ∀ ev ∈ s.pending, ¬ reports .dps128 g1 s 0 ev) := by
  refine ⟨⟨by decide, by decide, by decide, fun ev hev => ?_⟩, by decide, by decide, by decide, ?_⟩
  · rw [List.mem_singleton.1 hev]
    exact t17_silent sT17quiet (.inr rfl)
  · rintro ev - ⟨j, hj, hg, -⟩
    have none : ∀ j, j < 4 → gathered .dps128 g1
        { load sT13 0 0x3000 0 1 2 [] [] [0x80000000] with pending := [waiting] } 0 j = false := by decide
    rw [none j hj] at hg
    cases hg
/-- With nothing pending no event is to be reported. -/
theorem silent_of_noPending {f : Form} {g : Gather} {s : State} {ef : Nat} (h : s.noPending) :
    ∀ ev ∈ s.pending, ¬ reports f g s ef ev := by
  rw [h]
  rintro ev ⟨⟩

/-- A page fault (T13, and T17 with a silent event pending), #GP(0) (T15 (a)) and #SS(0) (T15 (b)) as the rightmost
fault. -/
theorem witness_rightmost :
    (sT13.ready g1 ∧ sT13.noDevice .dps128 g1 ∧ (∀ ev ∈ sT13.pending, ¬ reports .dps128 g1 sT13 2 ev)
      ∧ 2 < Form.n .dps128
      ∧ elemLoad .dps128 g1 sT13 2 = .exc pfT13 ∧ ∀ j, j < 2 → (elemLoad .dps128 g1 sT13 j).isOk = true)
    ∧ (sT17quiet.ready g1 ∧ sT17quiet.noDevice .dps128 g1 ∧ sT17quiet.pending ≠ []
      ∧ (∀ ev ∈ sT17quiet.pending, ¬ reports .dps128 g1 sT17quiet 2 ev)
      ∧ elemLoad .dps128 g1 sT17quiet 2 = .exc pfT13 ∧ ∀ j, j < 2 → (elemLoad .dps128 g1 sT17quiet j).isOk = true)
    ∧ (let s := load (base64 e1) 0 0x00007FFFFFFFFFFE 0 1 2 [1, 2, 3, 4, 5, 6, 7, 8] [] [0x80000000];
      s.ready g1 ∧ s.noDevice .dps128 g1 ∧ s.noPending ∧ elemLoad .dps128 g1 s 0 = .exc .gp0
        ∧ s.noDevice .dps128 { g1 with seg := .ss } ∧ elemLoad .dps128 { g1 with seg := .ss } s 0 = .exc .ss0) :=
  ⟨⟨by decide, by decide, silent_of_noPending rfl, by decide, by decide, by decide⟩,
    ⟨by decide, by decide, by decide, witness_pending_silent.1.2.2.2, by decide, by decide⟩, by decide⟩
/-- T17 with a silent event pending, and T12, an element that crosses into an absent page. -/
theorem witness_pageFault :
    (sT17quiet.ready g1 ∧ sT17quiet.noDevice .dps128 g1 ∧ (∀ ev ∈ sT17quiet.pending, ¬ reports .dps128 g1 sT17quiet 2 ev)
      ∧ active .dps128 g1 sT17quiet 2 = true ∧ lin sT17quiet g1.seg (effAddr .dps128 g1 sT17quiet 2) = .ok 0x3000#64
      ∧ sT17quiet.translate (wrapLinear sT17quiet.mode (0x3000#64 + BitVec.ofNat 64 0)) = .fault 4#32
      ∧ ∀ j, j < 2 → (elemLoad .dps128 g1 sT17quiet j).isOk = true)
    ∧ (let s : State := { load (base64 e1) 0 0x7FFE 0 1 2 [] [] [0xFFFFFFFF] with trans := [absent 0x8000 4] };
      s.ready g1 ∧ s.noDevice .dps128 g1 ∧ s.noPending ∧ active .dps128 g1 s 0 = true
        ∧ lin s g1.seg (effAddr .dps128 g1 s 0) = .ok 0x7FFE#64
        ∧ s.translate (wrapLinear s.mode (0x7FFE#64 + BitVec.ofNat 64 2)) = .fault 4#32) :=
  ⟨⟨by decide, by decide, witness_pending_silent.1.2.2.2, by decide, by decide, by decide, by decide⟩, by decide⟩
/-- X1: an exception of an instruction. -/
theorem witness_exception : ∃ t r, sT1.exc = none ∧ exec (.vgatherdps128 { g1 with dest := 1 }) sT1 = .next t
    ∧ t.exc = some r := ⟨_, ⟨6, none, .fault, 0x400000#64, true⟩, rfl, rfl, rfl⟩
/-- T13's gather with its page mapped: what it would do uninterrupted. -/
def wT13 : State := { sT13 with trans := [] }

/-- The state T13's fault exit leaves, under the free values. -/
def tT13 : State := faultExit .dps128 g1 sT13 2 pfT13

/-- What the environment leaves of it: the page mapped, and another general register and MXCSR. -/
def cT13 : State := { tT13.setXreg 5 1#64 with trans := [], mxcsr := 0#32, exc := none, rf := true }

/-- Whatever loads in T13 loads the same in a state where its elements load the same. -/
theorem t13_loadsAgree {w : State}
    (same : ∀ j, j < 4 → (elemLoad .dps128 g1 sT13 j).isOk = true →
      elemLoad .dps128 g1 w j = elemLoad .dps128 g1 sT13 j) : loadsAgree .dps128 g1 sT13 w := by
  intro j val phys h
  have hok : (elemLoad .dps128 g1 sT13 j).isOk = true := by rw [h]; rfl
  exact ⟨phys, by rw [same j (active_iff.1 (active_of_isOk hok)).1 hok, h]⟩

theorem witness_continuation : sT13.ready g1 ∧ sT13.noDevice .dps128 g1
    ∧ faulting .dps128 g1 sT13 = some (2, pfT13) ∧ exec (.vgatherdps128 g1) sT13 = .next tT13
    ∧ sameOperands g1 cT13 tT13 ∧ cT13.ready g1
    ∧ (let w : State := { cT13 with v := (cT13.v.set 0 (sT13.vreg 0)).set 2 (sT13.vreg 2) };
      w.loadable .dps128 g1 ∧ loadsAgree .dps128 g1 sT13 w) :=
  ⟨t13_faulting.1, t13_faulting.2.1, t13_faulting.2.2,
    t13_exec t13_faulting.1 t13_faulting.2.1 t13_faulting.2.2, ⟨rfl, rfl, rfl, rfl⟩, by decide, by decide,
    t13_loadsAgree (by decide)⟩

/-- In the continued state every element left active loads, and loads what the uninterrupted gather does. -/
theorem t13_continued {j : Nat} (h : active .dps128 g1 cT13 j = true) :
    elemLoad .dps128 g1 cT13 j = elemLoad .dps128 g1 wT13 j ∧ (elemLoad .dps128 g1 wT13 j).isOk = true := by
  have same : ∀ j, j < 4 → (match lin cT13 g1.seg (effAddr .dps128 g1 cT13 j) with
      | .error e => .exc e
      | .ok la => cT13.memRead la) = elemLoad .dps128 g1 wT13 j ∧ (elemLoad .dps128 g1 wT13 j).isOk = true := by
    decide
  rw [elemLoad_of_active h]
  exact same j (active_iff.1 h).1

/-- A chain of one fault exit: T13, then its page mapped. -/
theorem witness_chain : wT13.ready g1 ∧ wT13.loadable .dps128 g1 ∧ sameOperands g1 wT13 sT13
    ∧ continued (.vgatherdps128 g1) wT13 sT13 [cT13] ∧ [sT13, cT13].getLast? = some cT13 := by
  refine ⟨by decide, by decide, ⟨rfl, rfl, rfl, rfl⟩, ⟨t13_faulting.1, t13_faulting.2.1, t13_loadsAgree (by decide),
    ⟨tT13, 2, pfT13, t13_faulting.2.2, t13_exec t13_faulting.1 t13_faulting.2.1 t13_faulting.2.2, rfl, rfl, rfl, rfl⟩,
    by decide, fun j _ h => ?_, fun j val phys h => ⟨phys, ?_⟩⟩, rfl⟩
  · exact (congrArg Load.isOk (t13_continued h).1).trans (t13_continued h).2
  · have hok := congrArg Load.isOk h
    exact (t13_continued (active_of_isOk hok)).1.symm.trans h

/-! Frames and invariants. -/

/-- Every flag set against none, with VM the same, in a state that completes and in one that faults. -/
theorem witness_flags :
    ({ cf := true, pf := true, af := true, zf := true, sf := true, of := true, vm := false, ac := true } : Flags).vm
        = sT1.flags.vm
    ∧ ({ cf := true, pf := true, af := true, zf := true, sf := true, of := true, vm := false, ac := true } : Flags).vm
        = sT13.flags.vm
    ∧ sT1.loadable .dps128 g1 ∧ faulting .dps128 g1 sT13 = some (2, pfT13) := by decide
/-- The absent page of T13 at every level, beside an entry of level 1 alone: the same at the levels 3 and 0, at which it
faults; not the same at level 1; and paging off. -/
theorem witness_privilege :
    (let s : State :=
      { sT13 with
        trans := [{ range := { base := 0x2000#64, len := 4096 }, cpl := some 1#2, target := .phys 0x9000#64 },
          absent 0x3000 4] };
      entriesAt 0#2 s.trans = entriesAt s.cpl s.trans ∧ s.cpl ≠ 0#2 ∧ faulting .dps128 g1 s = some (2, pfT13)
        ∧ entriesAt 1#2 s.trans ≠ entriesAt s.cpl s.trans)
    ∧ ({ sT13 with ctl := { sT13.ctl with pg := false } } : State).ctl.pg = false := by decide
/-- Two bytes stored at 2000H, which a level-0 writer finds at 9000H, and the byte below them. -/
def sStore : State :=
  { sT13 with trans := [{ range := { base := 0x2000#64, len := 4096 }, cpl := some 0#2, target := .phys 0x9000#64 }] }
theorem witness_storeFrame : sStore.mem.wf = true
    ∧ ∀ b, b < [1#8, 2#8].length → ∀ p,
        sStore.translateAt 0#2 (wrapLinear sStore.mode (0x2000#64 + BitVec.ofNat 64 b)) = .phys p →
          p.toNat ≠ 0x2000 := by
  refine ⟨by decide, fun b hb p hp => ?_⟩
  have hb' : b < 2 := hb
  interval_cases b <;> (cases hp; decide)
theorem witness_storeWrites : sStore.mem.wf = true
    ∧ (∀ b, b < [1#8, 2#8].length →
        sStore.translateAt 0#2 (wrapLinear sStore.mode (0x2000#64 + BitVec.ofNat 64 b))
          = .phys (BitVec.ofNat 64 (0x9000 + b)))
    ∧ (∀ b, b < [1#8, 2#8].length → ∀ c, c < [1#8, 2#8].length →
        BitVec.ofNat 64 (0x9000 + b) = BitVec.ofNat 64 (0x9000 + c) → b = c) := by decide
theorem witness_steps : sT1.Inv ∧ ∃ t, step sT1 = .next t := ⟨by decide, _, rfl⟩

end Sys2Proof.Tests
end

section
/-! SUPPORT. The scope of a run (00_scope): the next states of an execution and of a step, what stays constant over a run
(R6, R73, R205), and the reset state (R42). -/

namespace Sys2Proof.Machine

/-! ## The next states of an execution and of a step -/

/-- Everything an execution that answers a next state can do (R121): `gather_cases` without its refusals. -/
theorem exec_next_cases {i : Instr} {s t : State} (h : exec i s = .next t) :
    (s.mode ≠ .code16 ∧ udCause i.gather s = true ∧ t = s.raiseUd)
      ∨ (s.mode ≠ .code16 ∧ udCause i.gather s = false ∧ s.env.ts = true ∧ t = s.raiseNm)
      ∨ (s.ready i.gather ∧ touchesDevice i.form i.gather s = false ∧ ∃ k e, faulting i.form i.gather s = some (k, e)
          ∧ t = faultExit i.form i.gather s k e)
      ∨ (s.ready i.gather ∧ touchesDevice i.form i.gather s = false ∧ faulting i.form i.gather s = none
          ∧ t = complete i.form i.gather s) := by
  rw [exec_eq_gather] at h
  rcases gather_cases i.form i.gather s with
    ⟨-, hg⟩ | ⟨hm, hu, hg⟩ | ⟨hm, hu, hts, hg⟩ | ⟨-, -, hg⟩ | ⟨hr, hd, k, e, hf, hg⟩ | ⟨hr, hd, hf, hg⟩ <;>
    cases hg.symm.trans h
  · exact .inl ⟨hm, hu, rfl⟩
  · exact .inr (.inl ⟨hm, hu, hts, rfl⟩)
  · exact .inr (.inr (.inl ⟨hr, hd, k, e, hf, rfl⟩))
  · exact .inr (.inr (.inr ⟨hr, hd, hf, rfl⟩))

/-- Everything a step that answers a next state can do: `step_cases` without its fault and refusals. -/
theorem step_next_cases {s t : State} (h : step s = .next t) :
    (∃ e edits rest, s.exc = some e ∧ s.handlers = edits :: rest ∧ t = s.handle e edits rest)
      ∨ (s.exc = none ∧ ∃ bytes, s.fetch = .ok bytes ∧ s.decodeAt bytes = .ud ∧ t = s.raiseUd)
      ∨ (s.exc = none ∧ ∃ bytes i, s.fetch = .ok bytes ∧ s.decodeAt bytes = .ok i ∧ exec i s = .next t) := by
  rcases step_cases s with ⟨e, edits, rest, he, hh, hs⟩ | ⟨e, -, -, hs⟩ | ⟨-, r, hs⟩ | ⟨he, bytes, hf, hd, hs⟩ |
    ⟨he, bytes, i, hf, hd, hs⟩
  · cases hs.symm.trans h
    exact .inl ⟨e, edits, rest, he, hh, rfl⟩
  · cases hs.symm.trans h
  · cases hs.symm.trans h
  · cases hs.symm.trans h
    exact .inr (.inl ⟨he, bytes, hf, hd, rfl⟩)
  · exact .inr (.inr ⟨he, bytes, i, hf, hd, hs.symm.trans h⟩)

/-! ## What is constant over a run -/

@[simp] theorem faultExitWith_mode (d : Draws) (f : Form) (g : Gather) (s : State) (ef : Nat) (e : ElemExc) :
    (faultExitWith d f g s ef e).mode = s.mode := by
  simp [State.mode]

/-- The environment's `Handle` step keeps the mode, the program, the configuration and the privilege level (assumption
log 23). -/
theorem State.handle_keeps (s : State) (e : Delivered) (edits : List HandlerEdit) (rest : List (List HandlerEdit)) :
    (s.handle e edits rest).mode = s.mode ∧ (s.handle e edits rest).prog = s.prog
      ∧ (s.handle e edits rest).cfg = s.cfg ∧ (s.handle e edits rest).cpl = s.cpl := by
  obtain ⟨hmode, hprog, hcfg, hcpl, -⟩ := State.foldl_applyEdit_keeps edits s
  exact ⟨hmode, hprog, hcfg, hcpl⟩

/-- An execution keeps the mode, the program, the configuration and the privilege level. -/
theorem exec_keeps {i : Instr} {s t : State} (h : exec i s = .next t) :
    t.mode = s.mode ∧ t.prog = s.prog ∧ t.cfg = s.cfg ∧ t.cpl = s.cpl := by
  rcases exec_next_cases h with ⟨-, -, rfl⟩ | ⟨-, -, -, rfl⟩ | ⟨-, -, k, e, -, rfl⟩ | ⟨-, -, -, rfl⟩
  · simp [State.raiseUd]
  · simp [State.raiseNm]
  · simp [faultExit]
  · simp

/-- Settles O57: the three ways a step goes on, each by what it keeps. -/
theorem modeProgramAndConfigurationAreConstant : Obligations.ModeProgramAndConfigurationAreConstant := by
  intro s t h
  rcases step_next_cases h with ⟨e, edits, rest, -, -, rfl⟩ | ⟨-, bytes, -, -, rfl⟩ | ⟨-, bytes, i, -, -, hx⟩
  · exact s.handle_keeps e edits rest
  · simp [State.raiseUd]
  · exact exec_keeps hx

/-! ## The reset state (R42) -/

/-- Every general register but RDX is 0 at reset. -/
theorem State.reset_xreg {k : Fin 16} (h : k ≠ 2) : State.reset.xreg k = 0#64 := by
  have hval : 2 ≠ k.val := fun he => h (Fin.ext he.symm)
  simp [State.xreg, State.reset, Vector.getElem_set_ne _ _ hval]

/-- Every vector register is 0 at reset, at the 256 bits of `CFG.VLMAX`'s default. -/
theorem State.reset_vreg (k : Fin 16) : State.reset.vreg k = ⟨256, 0⟩ := by
  simp only [State.vreg, State.reset, Vector.getElem_replicate]
  rfl

/-- Settles O59, part by part; the widths are those of `State.reset_vreg`. -/
theorem resetMeetsTheInvariant : Obligations.ResetMeetsTheInvariant := by
  have hpc : State.reset.pc.toNat < 2 ^ 32 := by decide
  have hwidth : ∀ k, (State.reset.vreg k).width = State.reset.cfg.vlmax := fun k => by
    rw [State.reset_vreg]
    rfl
  exact ⟨State.reset_mem_wf, fun _ => hpc, rfl, hwidth⟩

/-- Settles O60: the register files by their lemmas, every other field by evaluating `State.reset`. -/
theorem resetValues : Obligations.ResetValues :=
  ⟨fun _ h => State.reset_xreg h, State.reset_vreg, by decide⟩

end Sys2Proof.Machine
end

section
/-! SUPPORT. The invariant over a step (10_state R24, R28, R37; 60_exceptions R180, R197, R198, R200). -/

namespace Sys2Proof.Machine

/-! ## The invariant -/

/-- `trunc_W` keeps an address below the size of the address space of `pc` (R28, R50). -/
theorem wrapLinear_toNat (mode : Mode) (a : Qword) : (wrapLinear mode a).toNat = a.toNat % pcSpace mode := by
  cases mode with
  | mode64 => exact (Nat.mod_eq_of_lt a.isLt).symm
  | mode32 | real | v8086 | code16 =>
    simp only [wrapLinear, pcSpace, BitVec.toNat_setWidth]
    omega

theorem pcSpace_of_ne_mode64 {mode : Mode} (h : mode ≠ .mode64) : pcSpace mode = 2 ^ 32 := by
  cases mode with
  | mode64 => exact absurd rfl h
  | mode32 | real | v8086 | code16 => rfl

/-- Delivering a legal exception keeps the invariant, whatever was delivered before. -/
theorem State.Inv.deliver {s : State} (h : s.Inv) {vec : Nat} {code : Option Dword} {kind : ExcKind}
    (hlegal : Delivered.legal ⟨vec, code, kind, s.pc, true⟩ = true) : (s.deliver vec code kind).Inv := by
  obtain ⟨hmem, hpc, -, hwidth⟩ := h
  exact ⟨hmem, hpc, by simp [State.excOk, hlegal], hwidth⟩

/-- The registers, the read history and the draw counter a fault exit leaves keep the invariant. -/
theorem State.Inv.partialUpdate {s : State} (h : s.Inv) (d : Draws) (f : Form) (g : Gather) (ef : Nat) :
    (partialUpdate d f g s ef).Inv := by
  obtain ⟨hmem, hpc, hexc, hwidth⟩ := h
  exact ⟨hmem, hpc, hexc, State.setVreg_width _ _ _ (State.setVreg_width _ _ _ hwidth)⟩

/-- The exception of an element is one of R180's table. -/
theorem State.Inv.deliverElem {s : State} (h : s.Inv) (d : Draws) (e : ElemExc) : (deliverElem d s e).Inv := by
  cases e with
  | gp0 => exact h.deliver rfl
  | ss0 => exact h.deliver rfl
  | pf faults => exact State.Inv.deliver (s := s.setCr2 _) h rfl

/-- A fault exit delivers the element's exception, or in lieu of it a pending event, which has no error code (R200). -/
theorem State.Inv.faultExitWith {s : State} (h : s.Inv) (d : Draws) (f : Form) (g : Gather) (ef : Nat) (e : ElemExc) :
    (faultExitWith d f g s ef e).Inv := by
  have hp := h.partialUpdate d f g ef
  unfold Machine.faultExitWith
  split
  · rename_i ev _
    refine hp.deliver ?_
    cases ev.kind <;> rfl
  · exact hp.deliverElem d e

/-- Completion moves `pc` on within its address space; with nothing delivered it keeps the invariant. -/
theorem State.Inv.complete {s : State} (h : s.Inv) (hexc : s.exc = none) (f : Form) (g : Gather) :
    (complete f g s).Inv := by
  obtain ⟨hmem, -, -, hwidth⟩ := h
  refine ⟨hmem, fun hmode => ?_, by simp [State.excOk, hexc],
    State.setVreg_width _ _ _ (State.setVreg_width _ _ _ hwidth)⟩
  rw [complete_mode] at hmode
  rw [complete_pc, State.nextPc, wrapLinear_toNat, pcSpace_of_ne_mode64 hmode]
  exact Nat.mod_lt _ (by decide)

/-- With nothing delivered before, an execution keeps the invariant. -/
theorem State.Inv.exec {s t : State} {i : Instr} (h : s.Inv) (hexc : s.exc = none) (hx : exec i s = .next t) : t.Inv := by
  rcases exec_next_cases hx with ⟨-, -, rfl⟩ | ⟨-, -, -, rfl⟩ | ⟨-, -, k, e, -, rfl⟩ | ⟨-, -, -, rfl⟩
  · exact h.deliver rfl
  · exact h.deliver rfl
  · exact h.faultExitWith _ _ _ k e
  · exact h.complete hexc _ _

/-- Under the invariant a delivered exception has saved the `pc` of the gather (R197). -/
theorem State.Inv.savedPc {s : State} (h : s.Inv) {e : Delivered} (he : s.exc = some e) : e.savedPc = s.pc := by
  obtain ⟨-, -, hexc, -⟩ := h
  simp only [State.excOk, he, Bool.and_eq_true, beq_iff_eq] at hexc
  obtain ⟨⟨-, hsaved⟩, -⟩ := hexc
  exact hsaved

/-- Continuing a delivered exception keeps the invariant: `pc` goes back to where the exception was taken. -/
theorem State.Inv.handle {s : State} (h : s.Inv) {e : Delivered} (he : s.exc = some e) (edits : List HandlerEdit)
    (rest : List (List HandlerEdit)) : (s.handle e edits rest).Inv := by
  have hsaved := h.savedPc he
  obtain ⟨hmem, hpc, -, hwidth⟩ := h
  obtain ⟨hmode, -, hcfg, -⟩ := s.handle_keeps e edits rest
  refine ⟨State.foldl_applyEdit_wf edits s hmem, ?_, rfl, ?_⟩
  · rwa [hmode, State.handle_pc, hsaved]
  · rw [hcfg]
    exact State.foldl_applyEdit_width edits s hwidth

/-- Settles O58: the three ways a step goes on, each by the lemma that its outcome keeps the invariant. -/
theorem everyStepKeepsTheInvariant : Obligations.EveryStepKeepsTheInvariant := by
  intro s t hinv h
  rcases step_next_cases h with ⟨e, edits, rest, he, -, rfl⟩ | ⟨-, bytes, -, -, rfl⟩ | ⟨hexc, bytes, i, -, -, hx⟩
  · exact hinv.handle he edits rest
  · exact hinv.deliver rfl
  · exact hinv.exec hexc hx

end Sys2Proof.Machine
end

section
/-! SUPPORT. The decoder (30_encoding R109): its loop over the legacy bytes, what it has read when it answers an
instruction, and the registers it names in `Mode32` (R86, R92, R100). -/

namespace Sys2Proof

open Machine

@[simp] theorem Form.gather_instr (f : Form) (g : Gather) : (f.instr g).gather = g := by cases f <;> rfl
@[simp] theorem Form.form_instr (f : Form) (g : Gather) : (f.instr g).form = f := by cases f <;> rfl

/-! ## The legacy bytes (R83) -/

theorem scanLegacy_addressSize {l : Legacy} (h : l.has67 = false) (rest : List Byte) :
    scanLegacy l (0x67#8 :: rest) = scanLegacy { l with count := l.count + 1, has67 := true } rest := by
  simp [scanLegacy, h]

/-- A segment override is not the address-size byte. -/
theorem ne_of_segOfByte {b : Byte} {sg : Seg} (h : segOfByte b = some sg) : b ≠ 0x67#8 := by
  rintro rfl
  cases h.symm.trans (show segOfByte 0x67#8 = none by decide)

theorem scanLegacy_segment {l : Legacy} {b : Byte} {sg : Seg} (hb : segOfByte b = some sg) (h : l.seg = none)
    (rest : List Byte) :
    scanLegacy l (b :: rest) = scanLegacy { l with count := l.count + 1, seg := some sg } rest := by
  simp [scanLegacy, ne_of_segOfByte hb, hb, h]

theorem scanLegacy_stops (l : Legacy) {b : Byte} (hb : b ≠ 0x67#8) (hseg : segOfByte b = none) (rest : List Byte) :
    scanLegacy l (b :: rest) = .ok (l, b :: rest) := by
  simp [scanLegacy, hb, hseg]

/-- The first loop of R109 over admitted legacy bytes: it stops at the next byte that is neither 67H nor a segment
override, having counted them and seen whether 67H is among them. -/
theorem scanLegacy_of_admitted {legacy : List Byte} (h : admittedLegacy legacy = true) {b : Byte} (hb : b ≠ 0x67#8)
    (hseg : segOfByte b = none) (rest : List Byte) :
    ∃ l, scanLegacy { count := 0, has67 := false, seg := none } (legacy ++ b :: rest) = .ok (l, b :: rest)
      ∧ l.count = legacy.length ∧ l.has67 = legacy.contains 0x67#8 := by
  have stops := fun l => scanLegacy_stops l hb hseg rest
  match legacy, h with
  | [], _ => exact ⟨_, stops _, rfl, rfl⟩
  | [a], h =>
    simp only [admittedLegacy, Bool.or_eq_true, beq_iff_eq, Option.isSome_iff_exists] at h
    rcases h with rfl | ⟨sg, ha⟩
    · exact ⟨_, (scanLegacy_addressSize rfl _).trans (stops _), rfl, rfl⟩
    · exact ⟨_, (scanLegacy_segment ha rfl _).trans (stops _), rfl, by simp [(ne_of_segOfByte ha).symm]⟩
  | [a, c], h =>
    simp only [admittedLegacy, Bool.or_eq_true, Bool.and_eq_true, beq_iff_eq, Option.isSome_iff_exists] at h
    rcases h with ⟨rfl, sg, hc⟩ | ⟨⟨sg, ha⟩, rfl⟩
    · exact ⟨_, (scanLegacy_addressSize rfl _).trans ((scanLegacy_segment hc rfl _).trans (stops _)), rfl, by simp⟩
    · exact ⟨_, (scanLegacy_segment ha rfl _).trans ((scanLegacy_addressSize rfl _).trans (stops _)), rfl, by simp⟩

/-- Past admitted legacy bytes and outside a 16-bit code segment, the decoder goes on from the VEX escape. -/
theorem decode_of_admitted {mode : Mode} (hm : mode ≠ .code16) {legacy : List Byte}
    (h : admittedLegacy legacy = true) (enabled : Bool) (cfg : Vvvv3) (rest : List Byte) :
    ∃ l, decode mode enabled cfg (legacy ++ 0xC4#8 :: rest) = decodeVex mode enabled cfg l false (0xC4#8 :: rest)
      ∧ l.count = legacy.length ∧ l.has67 = legacy.contains 0x67#8 := by
  obtain ⟨l, hscan, hl⟩ := scanLegacy_of_admitted h (b := 0xC4#8) (by decide) (by decide) rest
  have hf : isForbidden mode 0xC4#8 = false := by cases mode <;> decide
  exact ⟨l, by simp [decode, hm, hscan, hf], hl⟩

/-! ## What follows them, by the record read -/

/-- R89, R96: no base register. -/
def noBaseAt (m sib : Byte) : Bool := m.extractLsb' 6 2 == 0#2 && sib.extractLsb' 0 3 == 5#3

/-- R92, R96: the base register of a recognised encoding. -/
def baseAt (mode : Mode) (v1 m sib : Byte) : Option (Fin 16) :=
  if noBaseAt m sib then none else some (regNumber mode (v1.extractLsb' 5 1) (sib.extractLsb' 0 3))

/-- R84, R87: the form, from the opcode and `VEX.L`. -/
def formAt (v2 op : Byte) : Form :=
  match op == 0x92#8, v2.extractLsb' 2 1 == 0#1 with
  | true, true => .dps128
  | true, false => .dps256
  | false, true => .qps128
  | false, false => .qps256

/-- The operand record of a recognised encoding with displacement `d` (R88 to R100). -/
def operandsAt (mode : Mode) (cfg : Vvvv3) (l : Legacy) (a : AddrSize) (v1 v2 m sib : Byte) (d : Qword) : Gather :=
  { dest := regNumber mode (v1.extractLsb' 7 1) (m.extractLsb' 3 3)
    index := regNumber mode (v1.extractLsb' 6 1) (sib.extractLsb' 3 3)
    mask := maskNumber mode cfg (v2.extractLsb' 3 4)
    base := baseAt mode v1 m sib
    scale := scaleOfField (sib.extractLsb' 6 2)
    disp := d
    seg := operandSeg mode l.seg (baseAt mode v1 m sib)
    asize := a
    len := l.count + 6 + dispCount (m.extractLsb' 6 2) (noBaseAt m sib) }

/-- R109 from the ModRM byte on, by the record it reads. -/
theorem decodeOperands_cons_cons (mode : Mode) (cfg : Vvvv3) (l : Legacy) (a : AddrSize) (v1 v2 op m sib : Byte)
    (rest : List Byte) :
    decodeOperands mode cfg l a v1 v2 op (m :: sib :: rest) =
      if m.extractLsb' 6 2 = 3#2 then .ud
      else if m.extractLsb' 0 3 ≠ 4#3 then .ud
      else if mode ≠ .mode64 ∧ cfg = .ud ∧ v2.extractLsb' 6 1 = 0#1 then .ud
      else (readDisp a (dispCount (m.extractLsb' 6 2) (noBaseAt m sib)) rest).elim
        (if (operandsAt mode cfg l a v1 v2 m sib 0#64).overlaps then .ud else .reject .truncated)
        (fun d => .ok ((formAt v2 op).instr (operandsAt mode cfg l a v1 v2 m sib d))) := by
  unfold decodeOperands noBaseAt operandsAt baseAt formAt noBaseAt
  dsimp only
  cases readDisp a (dispCount (m.extractLsb' 6 2) (m.extractLsb' 6 2 == 0#2 && sib.extractLsb' 0 3 == 5#3)) rest <;> rfl

/-- R109 from the ModRM byte on, where it answers an instruction: a memory form with a SIB byte, `vvvv` legal, and the
displacement's bytes present. -/
theorem decodeOperands_ok {mode : Mode} {cfg : Vvvv3} {l : Legacy} {a : AddrSize} {v1 v2 op : Byte} {bytes : List Byte}
    {i : Instr} (h : decodeOperands mode cfg l a v1 v2 op bytes = .ok i) :
    ∃ m sib rest d, bytes = m :: sib :: rest ∧ m.extractLsb' 6 2 ≠ 3#2 ∧ m.extractLsb' 0 3 = 4#3
      ∧ ¬ (mode ≠ .mode64 ∧ cfg = .ud ∧ v2.extractLsb' 6 1 = 0#1)
      ∧ readDisp a (dispCount (m.extractLsb' 6 2) (noBaseAt m sib)) rest = some d
      ∧ i = (formAt v2 op).instr (operandsAt mode cfg l a v1 v2 m sib d) := by
  match bytes with
  | [] => cases h
  | [m] =>
    simp only [decodeOperands] at h
    split_ifs at h
  | m :: sib :: rest =>
    rw [decodeOperands_cons_cons] at h
    cases hd : readDisp a (dispCount (m.extractLsb' 6 2) (noBaseAt m sib)) rest with
    | none =>
      rw [hd, Option.elim_none] at h
      split_ifs at h
    | some d =>
      rw [hd, Option.elim_some] at h
      split_ifs at h with hmod hrm hvvvv
      cases h
      exact ⟨m, sib, rest, d, rfl, hmod, not_not.1 hrm, hvvvv, hd, rfl⟩

/-- R109 from the VEX escape on, where the bytes reach the opcode. -/
theorem decodeVex_cons (mode : Mode) (enabled : Bool) (cfg : Vvvv3) (l : Legacy) (forbidden : Bool) (v1 v2 op : Byte)
    (rest : List Byte) :
    decodeVex mode enabled cfg l forbidden (0xC4#8 :: v1 :: v2 :: op :: rest) =
      if mode ≠ .mode64 ∧ v1.extractLsb' 6 2 ≠ 3#2 then .reject .notVexOutside64
      else if v1.extractLsb' 0 5 ≠ 2#5 ∨ v2.extractLsb' 0 2 ≠ 1#2 then .reject .otherMap
      else if op ≠ 0x92#8 ∧ op ≠ 0x93#8 then .reject .otherOpcode
      else if v2.extractLsb' 7 1 = 1#1 then .reject .wideForm
      else if forbidden then .ud
      else if mode.executes = false ∨ enabled = false then .ud
      else (addrSize mode l.has67).elim .ud (fun a => decodeOperands mode cfg l a v1 v2 op rest) := by
  simp only [decodeVex]
  cases addrSize mode l.has67 <;> rfl

/-- R109: one of the four encodings, recognised up to its opcode, is #UD in a mode that does not execute it or where it
is not enabled, and no byte after the opcode is read. -/
theorem decodeVex_of_not_enabled {mode : Mode} {enabled : Bool} {v1 v2 op : Byte} (cfg : Vvvv3) (l : Legacy)
    (forbidden : Bool) (rest : List Byte) (hv1 : mode = .mode64 ∨ v1.extractLsb' 6 2 = 3#2)
    (hhead : headBits v1 v2 op = true) (h : mode.executes = false ∨ enabled = false) :
    decodeVex mode enabled cfg l forbidden (0xC4#8 :: v1 :: v2 :: op :: rest) = .ud := by
  simp only [headBits, Bool.and_eq_true, Bool.or_eq_true, beq_iff_eq] at hhead
  obtain ⟨⟨⟨hmap, hpp⟩, hop⟩, hw⟩ := hhead
  have hrecognised : ¬ (mode ≠ .mode64 ∧ v1.extractLsb' 6 2 ≠ 3#2) := by tauto
  have hopcode : ¬ (op ≠ 0x92#8 ∧ op ≠ 0x93#8) := by tauto
  simp [decodeVex_cons, hrecognised, hmap, hpp, hopcode, hw, h]

/-- The decoder answers an instruction only where the bytes go from the VEX escape to the opcode at least. -/
theorem decodeVex_ok_shape {mode : Mode} {enabled : Bool} {cfg : Vvvv3} {l : Legacy} {forbidden : Bool}
    {bytes : List Byte} {i : Instr} (h : decodeVex mode enabled cfg l forbidden bytes = .ok i) :
    ∃ v1 v2 op rest, bytes = 0xC4#8 :: v1 :: v2 :: op :: rest := by
  unfold decodeVex at h
  split at h
  case h_1 => cases h
  case h_2 c after =>
    rcases eq_or_ne c 0xC4#8 with rfl | hc
    · rw [if_neg (not_not.2 rfl)] at h
      split at h
      case h_1 v1 v2 op rest => exact ⟨v1, v2, op, rest, rfl⟩
      case h_2 => cases h
    · rw [if_pos hc] at h
      cases h

/-- R109 from the VEX escape on, where it answers an instruction: the fixed bits of one of the four encodings, no
forbidden byte before it, a mode that executes it, enabled, and an address size that is not 16 bits. -/
theorem decodeVex_ok {mode : Mode} {enabled : Bool} {cfg : Vvvv3} {l : Legacy} {forbidden : Bool} {bytes : List Byte}
    {i : Instr} (h : decodeVex mode enabled cfg l forbidden bytes = .ok i) :
    ∃ v1 v2 op rest a, bytes = 0xC4#8 :: v1 :: v2 :: op :: rest
      ∧ (mode = .mode64 ∨ v1.extractLsb' 6 2 = 3#2) ∧ headBits v1 v2 op = true
      ∧ forbidden = false ∧ mode.executes = true ∧ enabled = true
      ∧ addrSize mode l.has67 = some a ∧ decodeOperands mode cfg l a v1 v2 op rest = .ok i := by
  obtain ⟨v1, v2, op, rest, rfl⟩ := decodeVex_ok_shape h
  rw [decodeVex_cons] at h
  cases ha : addrSize mode l.has67 with
  | none =>
    rw [ha, Option.elim_none] at h
    split_ifs at h
  | some a =>
    rw [ha, Option.elim_some] at h
    split_ifs at h with hv1 hmap hop hw hforbidden hoff
    have hw0 : v2.extractLsb' 7 1 = 0#1 := BitVec.eq_zero_or_eq_one _ |>.resolve_right hw
    rw [not_or, Bool.not_eq_false, Bool.not_eq_false] at hoff
    refine ⟨v1, v2, op, rest, a, rfl, by tauto, ?_, by simpa using hforbidden, hoff.1, hoff.2, rfl, h⟩
    simp only [headBits, Bool.and_eq_true, Bool.or_eq_true, beq_iff_eq]
    tauto

/-- R109 where it answers an instruction: past the legacy bytes stands one of the four encodings. -/
theorem decode_ok {mode : Mode} {enabled : Bool} {cfg : Vvvv3} {bytes : List Byte} {i : Instr}
    (h : decode mode enabled cfg bytes = .ok i) :
    ∃ l v1 v2 op rest a,
      scanLegacy { count := 0, has67 := false, seg := none } bytes = .ok (l, 0xC4#8 :: v1 :: v2 :: op :: rest)
      ∧ (mode = .mode64 ∨ v1.extractLsb' 6 2 = 3#2) ∧ headBits v1 v2 op = true
      ∧ mode.executes = true ∧ enabled = true
      ∧ addrSize mode l.has67 = some a ∧ decodeOperands mode cfg l a v1 v2 op rest = .ok i := by
  unfold decode at h
  split_ifs at h with hm
  split at h
  case h_1 => cases h
  case h_2 l rest hscan =>
    split at h
    case h_1 => cases h
    case h_2 b after =>
      split_ifs at h with hf
      · obtain ⟨_, _, _, _, _, -, -, -, hforbidden, -⟩ := decodeVex_ok h
        cases hforbidden
      · obtain ⟨v1, v2, op, rest, a, hbytes, hv1, hhead, -, hvex⟩ := decodeVex_ok h
        exact ⟨l, v1, v2, op, rest, a, hbytes ▸ hscan, hv1, hhead, hvex⟩

/-! ## `Mode32` -/

/-- R92: outside `Mode64` a register number has three bits. -/
theorem regNumber_mode32_lt (inverted : BitVec 1) (low : BitVec 3) : regNumber .mode32 inverted low < 8 := by
  change (0#1 ++ low).toFin < 8
  revert low
  decide

/-- R86: in `Mode32` the mask has number 0 to 7, because bit 3 of `vvvv` is dropped, or because it has been tested. -/
theorem maskNumber_mode32_lt {cfg : Vvvv3} {v2 : Byte} (h : ¬ (cfg = .ud ∧ v2.extractLsb' 6 1 = 0#1)) :
    maskNumber .mode32 cfg (v2.extractLsb' 3 4) < 8 := by
  cases cfg with
  | ignored =>
    change (0#1 ++ ~~~((v2.extractLsb' 3 4).extractLsb' 0 3)).toFin < 8
    generalize (v2.extractLsb' 3 4).extractLsb' 0 3 = low
    revert low
    decide
  | ud =>
    have hbit : (v2.extractLsb' 3 4).extractLsb' 3 1 = v2.extractLsb' 6 1 := by
      ext k hk
      simp [show 3 + k < 4 by omega, show 3 + (3 + k) = 6 + k by omega]
    have low : ∀ vvvv : BitVec 4, vvvv.extractLsb' 3 1 ≠ 0#1 → (~~~vvvv).toFin < 8 := by decide
    exact low _ fun h0 => h ⟨rfl, hbit ▸ h0⟩

/-- R100: in `Mode32` an admitted encoding has the 32-bit address size. -/
theorem addrSize_mode32 {has67 : Bool} {a : AddrSize} (h : addrSize .mode32 has67 = some a) : a = .a32 := by
  cases has67 <;> cases h
  rfl

/-- Settles O5: each register is the `regNumber` or `maskNumber` the decoder has read. -/
theorem mode32NamesLowRegistersOnly : Obligations.Mode32NamesLowRegistersOnly := by
  intro enabled cfg bytes i h
  obtain ⟨l, v1, v2, op, rest, a, -, -, -, -, -, ha, hops⟩ := decode_ok h
  obtain ⟨m, sib, rest', d, -, -, -, hvvvv, -, rfl⟩ := decodeOperands_ok hops
  rw [Form.gather_instr]
  refine ⟨regNumber_mode32_lt (v1.extractLsb' 7 1) _, regNumber_mode32_lt (v1.extractLsb' 6 1) _,
    maskNumber_mode32_lt fun hv => hvvvv ⟨by decide, hv⟩,
    fun b hb => ?_, addrSize_mode32 ha⟩
  simp only [operandsAt, baseAt] at hb
  split_ifs at hb
  cases hb
  exact regNumber_mode32_lt (v1.extractLsb' 5 1) _

end Sys2Proof
end

section
/-! SUPPORT. Outcomes of an execution and of a step decided by the control bits (10_state R33, R34; 30_encoding R101, R109;
60_exceptions R182, R183), and `pc` after completion (R29). -/

namespace Sys2Proof.Machine

/-! ## One execution, by its premises -/

theorem exec_of_code16 {i : Instr} {s : State} (h : s.mode = .code16) : exec i s = .refused .codeSegment16 := by
  simp [exec_eq_gather, Machine.gather, h]

theorem exec_of_udCause {i : Instr} {s : State} (hm : s.mode ≠ .code16) (hu : udCause i.gather s = true) :
    exec i s = .next s.raiseUd := by
  simp [exec_eq_gather, Machine.gather, hm, hu]

theorem exec_of_ts {i : Instr} {s : State} (hm : s.mode ≠ .code16) (hu : udCause i.gather s = false)
    (hts : s.env.ts = true) : exec i s = .next s.raiseNm := by
  simp [exec_eq_gather, Machine.gather, hm, hu, hts]

/-- A ready gather whose active elements all load completes (R131). -/
theorem exec_of_loadable {i : Instr} {s : State} (hr : s.ready i.gather) (hl : s.loadable i.form i.gather) :
    exec i s = .next (complete i.form i.gather s) := by
  obtain ⟨hd, hf⟩ := loadable_iff.1 hl
  rw [exec_eq_gather, gather_of_ready hr hd, hf]

/-- R181, R182: the causes of #UD, all of them. -/
theorem udCause_eq_false {g : Gather} {s : State} :
    udCause g s = false ↔ s.mode.executes = true ∧ s.env.enabled = true ∧ g.overlaps = false := by
  simp [udCause, and_assoc]

theorem Mode.ne_code16_of_executes {m : Mode} (h : m.executes = true) : m ≠ .code16 := by
  rintro rfl
  exact absurd h (by decide)

/-! ## One step, by what the decoder answers -/

theorem step_of_fetch_error {s : State} {r : Refusal} (he : s.exc = none) (hf : s.fetch = .error r) :
    step s = .refused r := by
  simp [step, he, hf]

theorem step_of_decode_ud {s : State} {bytes : List Byte} (he : s.exc = none) (hf : s.fetch = .ok bytes)
    (hd : s.decodeAt bytes = .ud) : step s = .next s.raiseUd := by
  simp [step, he, hf, hd]

/-- A 16-bit code segment is refused before any byte is looked at (R101). -/
theorem State.decodeAt_of_code16 {s : State} (h : s.mode = .code16) (bytes : List Byte) :
    s.decodeAt bytes = .reject .codeSegment16 := by
  simp [State.decodeAt, decode, h]

/-! ## The end of the program (R29, R241) -/

theorem State.fetch_of_wraps {s : State} (h : s.prog.wraps s.mode = true) : s.fetch = .error .placementWraps := by
  simp [State.fetch, h]

theorem State.fetch_of_endAddr {s : State} (hw : s.prog.wraps s.mode = false) (hpc : s.pc = s.prog.endAddr) :
    s.fetch = .error .endOfProgram := by
  simp [State.fetch, hw, hpc]

/-- Settles O12, by what the fetch answers. -/
theorem stepStopsAtTheProgramEnd : Obligations.StepStopsAtTheProgramEnd := fun _ he =>
  ⟨fun hw => step_of_fetch_error he (State.fetch_of_wraps hw),
    fun hw hpc => step_of_fetch_error he (State.fetch_of_endAddr hw hpc)⟩

/-! ## #NM and the 16-bit code segment (R101, R183) -/

/-- Settles O18: none of the causes of #UD holds, and TS is tested next. -/
theorem taskSwitchedIsNm : Obligations.TaskSwitchedIsNm := by
  intro i s hpe hvm hmode havx2 hosxsave hsse havx hover hts
  have hexec : s.mode.executes = true := State.mode_executes.2 ⟨hpe, hvm, hmode⟩
  have henabled : s.env.enabled = true := State.enabled_iff.2 ⟨havx2, hosxsave, hsse, havx⟩
  exact exec_of_ts (Mode.ne_code16_of_executes hexec) (udCause_eq_false.2 ⟨hexec, henabled, hover⟩) hts

/-- A step with nothing delivered is refused in a 16-bit code segment: by the fetch, or by the decoder. -/
theorem step_refused_of_code16 {s : State} (hm : s.mode = .code16) (he : s.exc = none) : ∃ r, step s = .refused r := by
  rcases step_cases s with ⟨e, -, -, hs, -⟩ | ⟨e, hs, -⟩ | ⟨-, hr⟩ | ⟨-, bytes, -, hd, -⟩ | ⟨-, bytes, i, -, hd, -⟩
  · cases he.symm.trans hs
  · cases he.symm.trans hs
  · exact hr
  · cases hd.symm.trans (s.decodeAt_of_code16 hm bytes)
  · cases hd.symm.trans (s.decodeAt_of_code16 hm bytes)

/-- Settles O19: these control bits are the 16-bit code segment's, which is refused first. -/
theorem sixteenBitCodeSegmentIsRefused : Obligations.SixteenBitCodeSegmentIsRefused := by
  intro i s hpe hvm hl hd
  have hm : s.mode = .code16 := State.mode_eq_code16.2 ⟨hpe, hvm, hl, hd⟩
  exact ⟨exec_of_code16 hm, step_refused_of_code16 hm⟩

/-! ## `pc` at completion (R29) -/

/-- The modulus of `pc` is an even divisor of 2^64, so that the sum may be taken at 64 bits first. -/
theorem State.nextPc_toNat (s : State) (len : Nat) : (s.nextPc len).toNat = (s.pc.toNat + len) % pcSpace s.mode := by
  have hdvd : pcSpace s.mode ∣ 2 ^ 64 := by
    cases s.mode <;> decide
  rw [State.nextPc, wrapLinear_toNat, BitVec.toNat_add, BitVec.toNat_ofNat, Nat.add_mod_mod,
    Nat.mod_mod_of_dvd _ hdvd]

/-- In a mode that executes the encodings, the modulus of `pc` by LMA and CS.L (R33). -/
theorem State.pcSpace_of_executes {s : State} (h : s.mode.executes = true) :
    pcSpace s.mode = if s.ctl.lma = true ∧ s.ctl.csL = true then 2 ^ 64 else 2 ^ 32 := by
  obtain ⟨hpe, hvm, -⟩ := State.mode_executes.1 h
  split
  case isTrue hl => rw [State.mode_eq_mode64.2 ⟨hpe, hvm, hl⟩, pcSpace]
  case isFalse hl =>
    refine pcSpace_of_ne_mode64 fun hm => hl ?_
    obtain ⟨-, -, h64⟩ := State.mode_eq_mode64.1 hm
    exact h64

/-- Settles O27: the instruction completes, and `pc` moves on as `nextPc` says. -/
theorem completionMovesPcByTheLength : Obligations.CompletionMovesPcByTheLength := by
  intro i s hr hl
  have hx := exec_of_loadable hr hl
  obtain ⟨hexec, -, -⟩ := hr
  refine ⟨_, hx, ?_⟩
  rw [complete_pc, State.nextPc_toNat, State.pcSpace_of_executes hexec]

/-! ## Not enabled, real-address and virtual-8086 mode (R101, R182) -/

/-- R182 (g) to (j), R33, R101: the control bits of `NotEnabledIsUd` are a mode that does not execute, or not
`enabled(env)`. -/
theorem State.not_executes_or_not_enabled {s : State} (h : s.cfg.avx2 = false ∨ s.ctl.osxsave = false ∨ s.ctl.sse = false
    ∨ s.ctl.avx = false ∨ s.ctl.pe = false ∨ s.flags.vm = true) :
    s.mode.executes = false ∨ s.env.enabled = false := by
  by_contra hn
  rw [not_or, Bool.not_eq_false, Bool.not_eq_false, State.mode_executes, State.enabled_iff] at hn
  simp [hn] at h

/-- Settles O17: the cause is one of `udCause` for the instruction, and one of R109's tests, before it reads past the
opcode, for the step. -/
theorem notEnabledIsUd : Obligations.NotEnabledIsUd := by
  intro s h16 hcause
  have hm : s.mode ≠ .code16 := fun hm => h16 (State.mode_eq_code16.1 hm)
  have hoff := State.not_executes_or_not_enabled hcause
  refine ⟨fun i => exec_of_udCause hm ?_, fun legacy v1 v2 op rest he hleg hf hv1 hhead => ?_⟩
  · rcases hoff with h | h <;> simp [udCause, h]
  · obtain ⟨l, hdec, -⟩ := decode_of_admitted hm hleg s.env.enabled s.cfg.vvvv3 (v1 :: v2 :: op :: rest)
    exact step_of_decode_ud he hf
      (hdec.trans (decodeVex_of_not_enabled _ l _ rest (hv1.imp_left State.mode_eq_mode64.2) hhead hoff))

end Sys2Proof.Machine
end

section
/-! SUPPORT. Linear addresses (20_memory R58; 60_exceptions R184, R185), by mode. -/

namespace Sys2Proof.Machine

/-- R184, R185: #SS(0) for SS, #GP(0) for any other segment. -/
theorem segExc_eq (seg : Seg) : segExc seg = if seg = .ss then .ss0 else .gp0 := by
  cases seg <;> rfl

/-! ## `Mode64` -/

/-- In `Mode64` only FS and GS have a base (R58). -/
theorem segBase64_eq (s : State) (seg : Seg) :
    segBase64 s seg = if seg = .fs ∨ seg = .gs then (s.segment seg).base else 0#64 := by
  cases seg <;> rfl

/-- R58: canonical for `LA_BITS = k + 1` is: in the signed range of that many bits. Read as numbers, the addresses
whose high bits are all zeros are the lowest 2^k, those whose high bits are all ones the highest. -/
theorem canonical_succ_iff {k : Nat} (hk : k < 64) (la : Qword) :
    canonical (k + 1) la = true ↔ -(2 ^ k) ≤ la.toInt ∧ la.toInt < 2 ^ k := by
  have hpow : 2 ^ k * 2 ^ (64 - k) = 2 ^ 64 := by rw [← pow_add, Nat.add_sub_cancel' hk.le]
  have hpos : 0 < 2 ^ k := Nat.two_pow_pos k
  have hhalf : 2 ^ k ≤ 2 ^ 63 := Nat.pow_le_pow_right (by decide) (by omega)
  have hzeros : la.toNat / 2 ^ k = 0 ↔ la.toNat < 2 ^ k := by
    rw [Nat.div_eq_zero_iff]
    omega
  have hones_mul : (2 ^ 64 - 1) / 2 ^ k * 2 ^ k = 2 ^ 64 - 2 ^ k := by
    have hsplit : 2 ^ 64 - 1 = 2 ^ k - 1 + 2 ^ k * (2 ^ (64 - k) - 1) := by
      rw [Nat.mul_sub, hpow]
      omega
    rw [hsplit, Nat.add_mul_div_left _ _ hpos, Nat.div_eq_of_lt (by omega), Nat.zero_add, Nat.sub_mul, Nat.mul_comm,
      hpow, Nat.one_mul]
  have hones : la.toNat / 2 ^ k = (2 ^ 64 - 1) / 2 ^ k ↔ 2 ^ 64 - 2 ^ k ≤ la.toNat := by
    rw [le_antisymm_iff, and_iff_right (Nat.div_le_div_right (by omega)), Nat.le_div_iff_mul_le hpos, hones_mul]
  have hcast : ((2 ^ k : Nat) : Int) = 2 ^ k := by push_cast; rfl
  have hla := la.isLt
  simp only [canonical, Nat.add_sub_cancel, Bool.or_eq_true, beq_iff_eq, ← BitVec.toNat_inj, BitVec.toNat_ushiftRight,
    Nat.shiftRight_eq_div_pow, BitVec.toNat_allOnes, BitVec.toNat_ofNat, Nat.zero_mod, hzeros, hones, ← hcast,
    BitVec.toInt_eq_toNat_cond]
  split <;> omega

/-- `Lin` in `Mode64` (R58): the four bytes are tested one by one. -/
theorem lin_of_mode64 {s : State} (h : s.mode = .mode64) (seg : Seg) (ea : Qword) :
    lin s seg ea =
      if (List.range 4).all (fun b => canonical s.cfg.laBits (segBase64 s seg + ea + BitVec.ofNat 64 b)) = true then
        .ok (segBase64 s seg + ea)
      else .error (segExc seg) := by
  simp only [lin, h, show List.range 4 = [0, 1, 2, 3] from rfl, List.all_cons, List.all_nil, Bool.and_true,
    BitVec.add_zero, Bool.and_assoc]

/-- Settles O32: the canonical addresses are the signed range. -/
theorem linearAddressInMode64 : Obligations.LinearAddressInMode64 := by
  intro s seg ea la hpe hvm hlma hl hlo hhi hla
  obtain ⟨k, hk⟩ : ∃ k, s.cfg.laBits = k + 1 := ⟨_, (Nat.sub_add_cancel hlo).symm⟩
  have hcanonical := canonical_succ_iff (k := k) (by omega)
  rw [← segBase64_eq] at hla
  rw [lin_of_mode64 (State.mode_eq_mode64.2 ⟨hpe, hvm, hlma, hl⟩), ← hla, hk, ← segExc_eq, Nat.add_sub_cancel]
  simp only [List.all_eq_true, List.mem_range, hcanonical]
  refine ⟨fun h => if_pos h, ?_⟩
  rintro ⟨b, hb, h⟩
  refine if_neg fun hall => ?_
  have := hall b hb
  omega

/-! ## `Mode32` -/

/-- `Lin` in `Mode32` (R58). -/
theorem lin_of_mode32 {s : State} (h : s.mode = .mode32) (seg : Seg) (ea : Qword) :
    lin s seg ea =
      if segCheck (s.segment seg) (wrapLinear .mode32 ea) = true then
        .ok (wrapLinear .mode32 ((s.segment seg).base + ea))
      else .error (segExc seg) := by
  simp only [lin, h]
  rfl

theorem Limit.admits_top (highest : Dword) (off : Qword) :
    (Limit.top highest).admits off = true ↔ off.toNat + 3 ≤ highest.toNat :=
  decide_eq_true_iff

theorem Limit.admits_offsets (accepted : List Range) (off : Qword) :
    (Limit.offsets accepted).admits off = true ↔ ∃ r ∈ accepted, (off - r.base).toNat < r.len := by
  simp [Limit.admits, Range.contains]

theorem segCheck_iff (sg : Segment) (off : Qword) :
    segCheck sg off = true ↔ sg.null = false ∧ sg.readable = true ∧ sg.limit.admits off = true := by
  simp [segCheck, and_assoc]

/-- Settles O33: the segment check clause by clause, then the sum modulo 2^32. -/
theorem linearAddressInMode32 : Obligations.LinearAddressInMode32 := by
  intro s seg ea off inside hpe hvm hl hd hoff hinside
  have hoff' : off = wrapLinear .mode32 ea := BitVec.eq_of_toNat_eq (hoff.trans (wrapLinear_toNat .mode32 ea).symm)
  have hadmits : (s.segment seg).limit.admits off = true ↔ inside := by
    rw [hinside]
    cases (s.segment seg).limit with
    | top highest => exact Limit.admits_top highest off
    | offsets accepted => exact Limit.admits_offsets accepted off
  have hcheck : segCheck (s.segment seg) (wrapLinear .mode32 ea) = true
      ↔ (s.segment seg).null = false ∧ (s.segment seg).readable = true ∧ inside := by
    rw [segCheck_iff, ← hoff', hadmits]
  rw [lin_of_mode32 (State.mode_eq_mode32.2 ⟨hpe, hvm, hl, hd⟩), ← segExc_eq]
  refine ⟨fun h => ⟨_, if_pos (hcheck.2 h), ?_⟩, fun h => if_neg fun hc => ?_⟩
  · rw [wrapLinear_toNat, BitVec.toNat_add]
    exact Nat.mod_mod_of_dvd _ (by decide)
  · obtain ⟨hnull, hread, hin⟩ := hcheck.1 hc
    simp [hnull, hread, hin] at h

end Sys2Proof.Machine
end

section
/-! SUPPORT. What no instruction reads: the flags but RF and VM, CR0.AM and MXCSR (10_state R31 to R33, 20_memory R55). -/

namespace Sys2Proof.Machine

/-! ## An execution that commutes with a change of the state -/

/-- The faulting element depends on the outcomes of the elements alone (R137). -/
theorem firstExc_congr {f : Form} {g : Gather} {s s' : State} (h : elemLoad f g s' = elemLoad f g s) (l : List Nat) :
    firstExc f g s' l = firstExc f g s l := by
  induction l with
  | nil => rfl
  | cons j rest ih => simp only [firstExc, h, ih]

theorem faulting_congr {f : Form} {g : Gather} {s s' : State} (h : elemLoad f g s' = elemLoad f g s) :
    faulting f g s' = faulting f g s :=
  firstExc_congr h _

theorem touchesDevice_congr {f : Form} {g : Gather} {s s' : State} (h : elemLoad f g s' = elemLoad f g s) :
    touchesDevice f g s' = touchesDevice f g s := by
  simp only [touchesDevice, h]

/-- `#UD`'s causes are the operands' and those `Env` shows (R34, R181, R182). -/
theorem udCause_congr {g : Gather} {s s' : State} (h : s'.env = s.env) : udCause g s' = udCause g s := by
  have hmode : s'.mode = s.mode := congrArg Env.mode h
  simp only [udCause, hmode, h]

/-- An outcome with its next state changed. -/
def mapNext (φ : State → State) : Host.Outcome State Fault Refusal → Host.Outcome State Fault Refusal
  | .next t => .next (φ t)
  | .fault r => .fault r
  | .refused r => .refused r

/-- A change of the state that neither the checks nor the outcomes of the elements see, and that commutes with each way
an execution ends, commutes with the execution. -/
theorem exec_commutes (φ : State → State) {i : Instr} {s : State} (henv : (φ s).env = s.env)
    (hload : elemLoad i.form i.gather (φ s) = elemLoad i.form i.gather s)
    (hud : (φ s).raiseUd = φ s.raiseUd) (hnm : (φ s).raiseNm = φ s.raiseNm)
    (hfault : ∀ k e, faultExit i.form i.gather (φ s) k e = φ (faultExit i.form i.gather s k e))
    (hcomplete : complete i.form i.gather (φ s) = φ (complete i.form i.gather s)) :
    exec i (φ s) = mapNext φ (exec i s) := by
  have hmode : (φ s).mode = s.mode := congrArg Env.mode henv
  rw [exec_eq_gather, exec_eq_gather]
  simp only [Machine.gather, hmode, henv, udCause_congr henv, touchesDevice_congr hload, faulting_congr hload, hud, hnm,
    hfault, hcomplete]
  split_ifs
  case neg => cases faulting i.form i.gather s <;> rfl
  all_goals rfl

/-! ## The fields nothing reads (assumption log 15) -/

/-- The state with other flags, VM as it was, another CR0.AM and another MXCSR. -/
def State.withUnread (fl : Flags) (am : Bool) (mx : Dword) (s : State) : State :=
  { s with flags := { fl with vm := s.flags.vm }, mxcsr := mx, ctl := { s.ctl with am := am } }

section
variable (f : Form) (g : Gather) (s : State) (fl : Flags) (am : Bool) (mx : Dword)

theorem partialUpdate_withUnread (d : Draws) (ef : Nat) :
    partialUpdate d f g (s.withUnread fl am mx) ef = (partialUpdate d f g s ef).withUnread fl am mx := rfl

theorem deliverElem_withUnread (d : Draws) (e : ElemExc) :
    deliverElem d (s.withUnread fl am mx) e = (deliverElem d s e).withUnread fl am mx := by
  cases e <;> rfl

theorem drawsOf_withUnread : drawsOf f g (s.withUnread fl am mx) = drawsOf f g s := rfl

theorem pendingFor_withUnread (d : Draws) (ef : Nat) :
    pendingFor f g (s.withUnread fl am mx) (completedSet d f g (s.withUnread fl am mx) ef)
      = pendingFor f g s (completedSet d f g s ef) := rfl

/-- The draws, the completed elements and the pending event of a fault exit do not see the unread fields. -/
theorem faultExit_withUnread (ef : Nat) (e : ElemExc) :
    faultExit f g (s.withUnread fl am mx) ef e = (faultExit f g s ef e).withUnread fl am mx := by
  simp only [faultExit, faultExitWith, drawsOf_withUnread, pendingFor_withUnread, partialUpdate_withUnread,
    deliverElem_withUnread]
  split <;> rfl

end

theorem exec_withUnread (i : Instr) (s : State) (fl : Flags) (am : Bool) (mx : Dword) :
    exec i (s.withUnread fl am mx) = mapNext (State.withUnread fl am mx) (exec i s) :=
  exec_commutes (State.withUnread fl am mx) rfl rfl rfl rfl (faultExit_withUnread _ _ s fl am mx) rfl

/-- An execution leaves the flags. -/
theorem exec_flags {i : Instr} {s t : State} (h : exec i s = .next t) : t.flags = s.flags := by
  rcases exec_next_cases h with ⟨-, -, rfl⟩ | ⟨-, -, -, rfl⟩ | ⟨-, -, k, e, -, rfl⟩ | ⟨-, -, -, rfl⟩
  · simp [State.raiseUd]
  · simp [State.raiseNm]
  · simp [faultExit]
  · simp

/-- With VM as it was, the flags are those given. -/
theorem State.withUnread_eq {s : State} {fl : Flags} (h : fl.vm = s.flags.vm) (am : Bool) (mx : Dword) :
    s.withUnread fl am mx = { s with flags := fl, mxcsr := mx, ctl := { s.ctl with am := am } } := by
  rw [State.withUnread, ← h]

/-- Settles O53: the execution commutes with a change of the unread fields, and its next state has the VM of the old. -/
theorem flagsAndMxcsrAreNotConsulted : Obligations.FlagsAndMxcsrAreNotConsulted := by
  intro i s fl am mx hvm
  rw [← State.withUnread_eq hvm, exec_withUnread]
  cases hx : exec i s with
  | next t => exact congrArg Host.Outcome.next (State.withUnread_eq (hvm.trans (by rw [exec_flags hx])) am mx)
  | fault r => rfl
  | refused r => rfl

end Sys2Proof.Machine
end

section
/-! SUPPORT. What `MemRead` answers (20_memory R53, R59, R60, R65; 40_gather_common R67, R130), by the translations of the
four bytes. -/

namespace Sys2Proof.Machine

/-! ## The four bytes of an element -/

/-- R60: the bytes of an element are those at offsets 0 to 3, each wrapped at the mode's width. -/
theorem State.byteAddrs_eq (s : State) (la : Qword) :
    s.byteAddrs la = (List.range 4).map fun b => wrapLinear s.mode (la + BitVec.ofNat 64 b) := by
  simp [State.byteAddrs, show List.range 4 = [0, 1, 2, 3] from rfl]

/-- R60: the page faults of an element are those of its bytes, each with its own address and error code. -/
theorem State.mem_pageFaults {s : State} {la a : Qword} {code : Dword} :
    (a, code) ∈ s.pageFaults la
      ↔ ∃ b, b < 4 ∧ a = wrapLinear s.mode (la + BitVec.ofNat 64 b) ∧ s.translate a = .fault code := by
  simp only [State.pageFaults, State.byteAddrs_eq, List.mem_filterMap, List.mem_map, List.mem_range]
  constructor
  · rintro ⟨_, ⟨b, hb, rfl⟩, h⟩
    split at h <;> cases h
    exact ⟨b, hb, rfl, ‹_›⟩
  · rintro ⟨b, hb, rfl, ht⟩
    exact ⟨_, ⟨b, hb, rfl⟩, by rw [ht]⟩

/-- No byte faults if and only if every byte translates. -/
theorem State.pageFaults_eq_nil_iff {s : State} {la : Qword} :
    s.pageFaults la = [] ↔ ∀ b, b < 4 → ∃ a, s.translate (wrapLinear s.mode (la + BitVec.ofNat 64 b)) = .phys a := by
  rw [List.eq_nil_iff_forall_not_mem, Prod.forall]
  simp only [State.mem_pageFaults]
  constructor
  · intro h b hb
    cases ht : s.translate (wrapLinear s.mode (la + BitVec.ofNat 64 b)) with
    | phys a => exact ⟨a, rfl⟩
    | fault code => exact absurd ⟨b, hb, rfl, ht⟩ (h _ code)
  · rintro h _ code ⟨b, hb, rfl, ht⟩
    obtain ⟨a, ha⟩ := h b hb
    cases ht.symm.trans ha

/-- Where every byte translates, the physical addresses are the four translations, in order. -/
theorem State.physAddrs_eq {s : State} {la : Qword} {p : Nat → Qword}
    (h : ∀ b, b < 4 → s.translate (wrapLinear s.mode (la + BitVec.ofNat 64 b)) = .phys (p b)) :
    s.physAddrs la = (List.range 4).map p := by
  rw [State.physAddrs, State.byteAddrs_eq, List.filterMap_map, ← List.filterMap_eq_map]
  refine List.filterMap_congr fun b hb => ?_
  simp [h b (List.mem_range.1 hb)]

/-! ## The dword (R53) -/

/-- R53: byte `b` of the dword is the byte at the `b`-th address. -/
theorem Memory.extractLsb'_dword (m : Memory) (p : Nat → Qword) {b : Nat} (hb : b < 4) :
    (m.dword ((List.range 4).map p)).extractLsb' (8 * b) 8 = m.read (p b).toNat := by
  have above {v : Nat} (hi : BitVec v) (lo : Byte) (k : Nat) :
      (hi ++ lo).extractLsb' (k + 8) 8 = hi.extractLsb' k 8 := BitVec.extractLsb'_append_eq_of_le (Nat.le_add_left 8 k)
  interval_cases b
  · exact BitVec.extractLsb'_append_eq_right
  · exact (above _ _ 0).trans BitVec.extractLsb'_append_eq_right
  · exact (above _ _ 8).trans ((above _ _ 0).trans BitVec.extractLsb'_append_eq_right)
  · exact (above _ _ 16).trans ((above _ _ 8).trans BitVec.extractLsb'_append_eq_left)

/-- A dword is its four bytes. -/
theorem dword_ext {v w : Dword} (h : ∀ b, b < 4 → v.extractLsb' (8 * b) 8 = w.extractLsb' (8 * b) 8) : v = w := by
  apply BitVec.eq_of_getLsbD_eq
  intro k hk
  have hbyte := congrArg (fun x : Byte => x.getLsbD (k % 8)) (h (k / 8) (by omega))
  have hmod : k % 8 < 8 := Nat.mod_lt _ (by decide)
  simpa [hmod, Nat.div_add_mod] using hbyte

/-! ## The three answers -/

theorem State.memRead_eq_exc_iff {s : State} {la : Qword} {e : ElemExc} :
    s.memRead la = .exc e ↔ s.pageFaults la ≠ [] ∧ e = .pf (s.pageFaults la) := by
  rcases s.memRead_cases la with ⟨hf, h⟩ | ⟨hf, -, h⟩ | ⟨hf, -, h⟩ <;> simp [h, hf, eq_comm]

theorem State.memRead_eq_device_iff {s : State} {la : Qword} :
    s.memRead la = .device ↔ s.pageFaults la = [] ∧ (s.physAddrs la).any s.isIo = true := by
  rcases s.memRead_cases la with ⟨hf, h⟩ | ⟨hf, hio, h⟩ | ⟨hf, hio, h⟩ <;> simp [h, hf] <;> simpa using hio

theorem State.memRead_eq_ok_iff {s : State} {la : Qword} {val : Dword} {phys : List Qword} :
    s.memRead la = .ok val phys
      ↔ s.pageFaults la = [] ∧ (s.physAddrs la).any s.isIo = false ∧ phys = s.physAddrs la ∧ val = s.mem.dword phys := by
  rcases s.memRead_cases la with ⟨hf, h⟩ | ⟨hf, hio, h⟩ | ⟨hf, hio, h⟩
  · simp [h, hf]
  · simp [h, hio]
  · rw [h, Load.ok.injEq, and_iff_right hf, and_iff_right hio]
    constructor <;> rintro ⟨rfl, rfl⟩ <;> exact ⟨rfl, rfl⟩

/-- A value, by the translations: no byte faults or lies in `IoAddrs`, and each byte of the value is the memory's. -/
theorem State.memRead_eq_ok_iff_bytes {s : State} {la : Qword} {val : Dword} {phys : List Qword} :
    s.memRead la = .ok val phys
      ↔ phys.length = 4 ∧ ∀ b, b < 4 → ∃ a, phys[b]? = some a
          ∧ s.translate (wrapLinear s.mode (la + BitVec.ofNat 64 b)) = .phys a ∧ s.isIo a = false
          ∧ val.extractLsb' (8 * b) 8 = s.mem.read a.toNat := by
  rw [State.memRead_eq_ok_iff, State.pageFaults_eq_nil_iff]
  constructor
  · rintro ⟨htr, hio, rfl, rfl⟩
    choose! p hp using htr
    simp only [State.physAddrs_eq hp, List.any_map, List.any_eq_false, List.mem_range] at hio ⊢
    exact ⟨by simp, fun b hb => ⟨p b, by simp [hb], hp b hb, by simpa using hio b hb, Memory.extractLsb'_dword _ _ hb⟩⟩
  · rintro ⟨hlen, h⟩
    choose! p hget htr hio hval using h
    have hphys : phys = (List.range 4).map p := List.ext_getElem? fun b => by
      by_cases hb : b < 4
      · simp [hget b hb, hb]
      · simp [hlen, hb]
    refine ⟨fun b hb => ⟨p b, htr b hb⟩, ?_, hphys.trans (State.physAddrs_eq htr).symm, dword_ext fun b hb => ?_⟩
    · simpa [State.physAddrs_eq htr] using hio
    · rw [hval b hb, hphys, Memory.extractLsb'_dword _ _ hb]

/-- A page fault, by the translations. -/
theorem State.memRead_exc_iff_translate {s : State} {la : Qword} :
    (∃ e, s.memRead la = .exc e)
      ↔ ∃ b code, b < 4 ∧ s.translate (wrapLinear s.mode (la + BitVec.ofNat 64 b)) = .fault code := by
  constructor
  · rintro ⟨e, he⟩
    obtain ⟨⟨a, code⟩, hmem⟩ := List.exists_mem_of_ne_nil _ (State.memRead_eq_exc_iff.1 he).1
    obtain ⟨b, hb, rfl, ht⟩ := State.mem_pageFaults.1 hmem
    exact ⟨b, code, hb, ht⟩
  · rintro ⟨b, code, hb, ht⟩
    exact ⟨_, State.memRead_eq_exc_iff.2 ⟨List.ne_nil_of_mem (State.mem_pageFaults.2 ⟨b, hb, rfl, ht⟩), rfl⟩⟩

/-- Device memory, by the translations. -/
theorem State.memRead_device_iff_translate {s : State} {la : Qword} :
    s.memRead la = .device
      ↔ (∀ b, b < 4 → ∃ a, s.translate (wrapLinear s.mode (la + BitVec.ofNat 64 b)) = .phys a)
        ∧ ∃ b a, b < 4 ∧ s.translate (wrapLinear s.mode (la + BitVec.ofNat 64 b)) = .phys a ∧ s.isIo a = true := by
  rw [State.memRead_eq_device_iff, State.pageFaults_eq_nil_iff]
  refine and_congr_right fun htr => ?_
  choose! p hp using htr
  simp only [State.physAddrs_eq hp, List.any_map, List.any_eq_true, List.mem_range, Function.comp_apply]
  constructor
  · rintro ⟨b, hb, hio⟩
    exact ⟨b, p b, hb, hp b hb, hio⟩
  · rintro ⟨b, a, hb, ht, hio⟩
    cases ht.symm.trans (hp b hb)
    exact ⟨b, hb, hio⟩

/-- The width of linear addresses by the mode bits (R33, R50; assumption log 29). -/
theorem State.wrapLinear_mode_toNat (s : State) (la : Qword) :
    (wrapLinear s.mode la).toNat
      = if s.ctl.pe = true ∧ s.flags.vm = false ∧ s.ctl.lma = true ∧ s.ctl.csL = true then la.toNat
        else la.toNat % 2 ^ 32 := by
  split
  case isTrue h => rw [State.mode_eq_mode64.2 h, wrapLinear]
  case isFalse h => rw [wrapLinear_toNat, pcSpace_of_ne_mode64 (mt State.mode_eq_mode64.1 h)]

/-- Settles O34: the three answers by the translations, the faulting bytes, and where `MemRead` is asked. -/
theorem memReadAnswersExactly : Obligations.MemReadAnswersExactly := by
  intro s la
  refine ⟨fun _ _ => State.memRead_eq_ok_iff_bytes, State.memRead_exc_iff_translate, fun e he => ?_,
    State.memRead_device_iff_translate, fun hpg cpl => State.translateAt_of_paging_off hpg cpl la,
    s.wrapLinear_mode_toNat la, fun f g j => ?_⟩
  · exact ⟨_, (State.memRead_eq_exc_iff.1 he).2, fun _ _ => State.mem_pageFaults⟩
  · split
    case isTrue h => exact elemLoad_of_active (active_iff.2 h)
    case isFalse h => exact elemLoad_of_inactive (Bool.eq_false_iff.2 (mt active_iff.1 h))

end Sys2Proof.Machine
end

section
/-! SUPPORT. The environment's `MemWrite` (20_memory R61): what it leaves unchanged and what it writes. -/

namespace Sys2Proof.Machine

/-! ## `MemWrite`, byte by byte -/

/-- The linear addresses of the bytes after the first, counted from the second. -/
theorem wrapLinear_succ (mode : Mode) (la : Qword) (b : Nat) :
    wrapLinear mode (la + BitVec.ofNat 64 (b + 1)) = wrapLinear mode (la + 1#64 + BitVec.ofNat 64 b) := by
  rw [Nat.add_comm b 1, BitVec.ofNat_add, BitVec.add_assoc]

/-- A byte to which none of the written bytes translates reads as before, whatever the memory written to. -/
theorem State.read_memWrite_of_forall_ne (s : State) (cpl : BitVec 2) {a : Nat} :
    ∀ (bytes : List Byte) (la : Qword) {m : Memory}, m.wf = true →
      (∀ b, b < bytes.length → ∀ p, s.translateAt cpl (wrapLinear s.mode (la + BitVec.ofNat 64 b)) = .phys p →
        p.toNat ≠ a) →
      (s.memWrite cpl bytes la m).read a = m.read a
  | [], _, _, _, _ => rfl
  | b :: rest, la, m, hm, h => by
    have hrest := fun k hk => h (k + 1) (Nat.succ_lt_succ hk)
    simp only [wrapLinear_succ] at hrest
    simp only [State.memWrite]
    split
    case h_1 p hp =>
      have hne : p.toNat ≠ a := h 0 (Nat.zero_lt_succ _) p (by simpa using hp)
      rw [State.read_memWrite_of_forall_ne s cpl rest _ (Memory.write_wf hm p.isLt) hrest, Memory.read_write hm,
        if_neg hne.symm]
    case h_2 => exact State.read_memWrite_of_forall_ne s cpl rest _ hm hrest

/-- Where the bytes translate to different physical bytes, each is written at its own: the first is not overwritten by
those after it, which are written as they would be alone. -/
theorem State.read_memWrite (s : State) (cpl : BitVec 2) :
    ∀ (bytes : List Byte) (la : Qword) {m : Memory} (p : Nat → Qword), m.wf = true →
      (∀ b, b < bytes.length → s.translateAt cpl (wrapLinear s.mode (la + BitVec.ofNat 64 b)) = .phys (p b)) →
      (∀ b c, b < bytes.length → c < bytes.length → p b = p c → b = c) →
      ∀ b, b < bytes.length → (s.memWrite cpl bytes la m).read (p b).toNat = bytes.getD b 0#8
  | byte :: rest, la, m, p, hm, htr, hinj, b, hb => by
    have hwf := Memory.write_wf (b := byte) hm (p 0).isLt
    have htr' := fun k hk => htr (k + 1) (Nat.succ_lt_succ hk)
    simp only [wrapLinear_succ] at htr'
    have hfirst : s.memWrite cpl (byte :: rest) la m = s.memWrite cpl rest (la + 1#64) (m.write (p 0).toNat byte) := by
      have h0 := htr 0 (Nat.zero_lt_succ _)
      rw [BitVec.add_zero] at h0
      simp only [State.memWrite, h0]
    rw [hfirst]
    cases b with
    | zero =>
      rw [State.read_memWrite_of_forall_ne s cpl rest _ hwf, Memory.read_write hm, if_pos rfl, List.getD_cons_zero]
      intro k hk q hq hsame
      cases (htr' k hk).symm.trans hq
      exact absurd (hinj (k + 1) 0 (Nat.succ_lt_succ hk) hb (BitVec.eq_of_toNat_eq hsame)) k.succ_ne_zero
    | succ b =>
      rw [List.getD_cons_succ]
      exact State.read_memWrite s cpl rest _ (fun k => p (k + 1)) hwf htr'
        (fun k c hk hc he => Nat.succ_injective (hinj _ _ (Nat.succ_lt_succ hk) (Nat.succ_lt_succ hc) he)) b
        (Nat.lt_of_succ_lt_succ hb)

/-- Settles O55: the frame of `MemWrite` at the state's own memory. -/
theorem environmentStoreFrame : Obligations.EnvironmentStoreFrame := fun s cpl bytes la _ hm h =>
  s.read_memWrite_of_forall_ne cpl bytes la hm h

/-- Settles O56: the bytes `MemWrite` writes into the state's own memory. -/
theorem environmentStoreWritesTheBytes : Obligations.EnvironmentStoreWritesTheBytes :=
  fun s cpl bytes la p hm htr hinj => s.read_memWrite cpl bytes la p hm htr hinj

end Sys2Proof.Machine
end

section
/-! SUPPORT. The element loads an execution rests on (20_memory R60, R62, R65, R67; 40_gather_common R130, R135; 60_exceptions
R186, R193): device memory, page faults, the record of read events, and what inactive elements do not change. -/

namespace Sys2Proof.Machine

/-! ## The checks of a ready gather -/

/-- A ready gather passes every check of R190. -/
theorem State.ready.checks {s : State} {g : Gather} (h : s.ready g) :
    s.mode ≠ .code16 ∧ udCause g s = false ∧ s.env.ts = false := by
  obtain ⟨hexec, hlaunch, hover⟩ := h
  simp only [State.enabledLaunch, Bool.and_eq_true, Bool.not_eq_true'] at hlaunch
  obtain ⟨henabled, hts⟩ := hlaunch
  exact ⟨Mode.ne_code16_of_executes hexec, udCause_eq_false.2 ⟨hexec, henabled, hover⟩, hts⟩

/-! ## Device memory (R65) -/

/-- A value or device memory is `MemRead`'s answer at the linear address of an active element (R130). -/
theorem elemLoad_eq_iff {f : Form} {g : Gather} {s : State} {j : Nat} {r : Load} (hidle : r ≠ .idle)
    (hexc : ∀ e, r ≠ .exc e) :
    elemLoad f g s j = r
      ↔ active f g s j = true ∧ ∃ la, lin s g.seg (effAddr f g s j) = .ok la ∧ s.memRead la = r := by
  cases ha : active f g s j with
  | false => simp [elemLoad_of_inactive ha, hidle.symm]
  | true =>
    rw [elemLoad_of_active ha]
    cases lin s g.seg (effAddr f g s j) with
    | error e => simp [(hexc e).symm]
    | ok la => simp

theorem touchesDevice_iff {f : Form} {g : Gather} {s : State} :
    touchesDevice f g s = true ↔ ∃ j, elemLoad f g s j = .device := by
  simp only [touchesDevice, List.any_eq_true, List.mem_range, beq_iff_eq]
  refine exists_congr fun j => and_iff_right_of_imp fun h => ?_
  obtain ⟨ha, -⟩ := (elemLoad_eq_iff (by simp) (by simp)).1 h
  exact (active_iff.1 ha).1

/-- R65: a ready gather is refused for device memory if and only if it touches it. -/
theorem exec_refused_device_iff {i : Instr} {s : State} (h : s.ready i.gather) :
    exec i s = .refused .deviceMemory ↔ touchesDevice i.form i.gather s = true := by
  obtain ⟨hm, hu, hts⟩ := h.checks
  rw [exec_eq_gather]
  rcases gather_cases i.form i.gather s with
    ⟨hm', -⟩ | ⟨-, hu', -⟩ | ⟨-, -, hts', -⟩ | ⟨-, hd, hg⟩ | ⟨-, hd, k, e, -, hg⟩ | ⟨-, hd, -, hg⟩
  · exact absurd hm' hm
  · cases hu.symm.trans hu'
  · cases hts.symm.trans hts'
  all_goals simp [hg, hd]

/-- Settles O37: an element's device memory by the translations of its bytes. -/
theorem deviceMemoryIsRefused : Obligations.DeviceMemoryIsRefused := by
  intro i s hr
  rw [exec_refused_device_iff hr, touchesDevice_iff]
  simp only [elemLoad_eq_iff (r := .device) (by simp) (by simp), State.memRead_device_iff_translate, exists_and_left]

/-! ## Page faults (R186, R193, R200) -/

/-- The elements a fault exit completes are those `gathered` says (R140). -/
theorem mem_completedSet {f : Form} {g : Gather} {s : State} {ef j : Nat} :
    j ∈ completedSet (drawsOf f g s) f g s ef ↔ j < f.n ∧ gathered f g s ef j = true := by
  rw [completedSet, List.mem_filter, List.mem_range]
  rfl

/-- Some linear byte of the element lies in the range (R200). -/
theorem elemLinear_any_contains {f : Form} {g : Gather} {s : State} {j : Nat} {r : Range} :
    (elemLinear f g s j).any r.contains = true
      ↔ ∃ la b, lin s g.seg (effAddr f g s j) = .ok la ∧ b < 4
          ∧ (wrapLinear s.mode (la + BitVec.ofNat 64 b) - r.base).toNat < r.len := by
  unfold elemLinear
  cases lin s g.seg (effAddr f g s j) with
  | error e => simp
  | ok la => simp [State.byteAddrs_eq, Range.contains]

/-- A completed element is loaded (R140). -/
theorem isOk_of_gathered {f : Form} {g : Gather} {s : State} {ef j : Nat} (h : gathered f g s ef j = true) :
    (elemLoad f g s j).isOk = true := by
  obtain ⟨hok, -⟩ := Bool.and_eq_true_iff.1 h
  exact hok

/-- R200: where some element is completed, an event fires if and only if it is to be reported. -/
theorem fires_iff_reports {f : Form} {g : Gather} {s : State} {ef : Nat} {ev : PendingEvent}
    (hne : completedSet (drawsOf f g s) f g s ef ≠ []) :
    ev.fires f g s (completedSet (drawsOf f g s) f g s ef) = true ↔ reports f g s ef ev := by
  unfold PendingEvent.fires reports
  cases ev.watch with
  | none =>
    obtain ⟨j, hj⟩ := List.exists_mem_of_ne_nil _ hne
    obtain ⟨hlt, hg⟩ := mem_completedSet.1 hj
    simpa using ⟨j, hlt, hg⟩
  | some r =>
    dsimp only
    rw [List.any_eq_true]
    simp only [mem_completedSet, elemLinear_any_contains, and_assoc, reduceCtorEq, false_or, Option.some.injEq,
      exists_and_left, exists_eq_left']

/-- R200: no event replaces the fault if and only if none is to be reported; none is where no element is completed. -/
theorem pendingFor_eq_none_iff {f : Form} {g : Gather} {s : State} {ef : Nat} :
    pendingFor f g s (completedSet (drawsOf f g s) f g s ef) = none ↔ ∀ ev ∈ s.pending, ¬ reports f g s ef ev := by
  simp only [pendingFor, List.isEmpty_iff]
  split
  case isTrue h =>
    refine iff_of_true rfl fun ev _ hrep => ?_
    obtain ⟨j, hlt, hg, -⟩ := hrep
    exact List.ne_nil_of_mem (mem_completedSet.2 ⟨hlt, hg⟩) h
  case isFalse h => simp only [List.find?_eq_none, fires_iff_reports h]

/-- A ready gather whose lowest-numbered exception is at element `ef`, with no event to be reported, delivers that
exception (R137, R200). -/
theorem exec_of_fault {i : Instr} {s : State} {ef : Nat} {e : ElemExc} (hr : s.ready i.gather)
    (hd : s.noDevice i.form i.gather) (hf : faulting i.form i.gather s = some (ef, e))
    (hp : ∀ ev ∈ s.pending, ¬ reports i.form i.gather s ef ev) :
    exec i s = .next (deliverElem (drawsOf i.form i.gather s)
      (partialUpdate (drawsOf i.form i.gather s) i.form i.gather s ef) e) := by
  rw [exec_eq_gather, gather_of_ready hr hd, hf]
  exact congrArg _ (faultExitWith_of_noPending _ _ _ _ _ _ (pendingFor_eq_none_iff.2 hp))

/-- Settles O40: the byte drawn is one of `pageFaults`, each of which is a faulting byte with its address and code. -/
theorem pageFaultRecordsAFaultingByte : Obligations.PageFaultRecordsAFaultingByte := by
  intro i s ef la b0 code0 hr hd hp ha hlin hb0 ht0 hleast
  have hne : s.pageFaults la ≠ [] := List.ne_nil_of_mem (State.mem_pageFaults.2 ⟨b0, hb0, rfl, ht0⟩)
  have hload : elemLoad i.form i.gather s ef = .exc (.pf (s.pageFaults la)) := by
    rw [elemLoad_of_active ha, hlin]
    exact State.memRead_eq_exc_iff.2 ⟨hne, rfl⟩
  have hf := faulting_iff.2 ⟨(active_iff.1 ha).1, hload, hleast⟩
  obtain ⟨b, hb, haddr, ht⟩ := State.mem_pageFaults.1 (pickFault_mem (drawsOf i.form i.gather s).pick hne)
  exact ⟨_, b, _, exec_of_fault hr hd hf hp, hb, haddr ▸ ht, haddr, rfl⟩

/-! ## The record of read events (R62, R75) -/

theorem mem_readBatch {f : Form} {g : Gather} {s : State} {done : Nat → Bool} {ev : ReadEvent} :
    ev ∈ readBatch f g s done
      ↔ ev.elem < f.n ∧ done ev.elem = true ∧ elemLoad f g s ev.elem = .ok ev.val ev.phys := by
  simp only [readBatch, List.mem_filterMap, List.mem_range]
  constructor
  · rintro ⟨j, hj, h⟩
    split at h
    case h_1 val phys hl =>
      split_ifs at h with hdone
      cases h
      exact ⟨hj, hdone, hl⟩
    all_goals cases h
  · rintro ⟨hj, hdone, hl⟩
    exact ⟨ev.elem, hj, by simp [hl, hdone]⟩

/-- The elements of a batch, in order: each element that is loaded and completed, once. -/
theorem map_elem_readBatch (f : Form) (g : Gather) (s : State) (done : Nat → Bool) :
    (readBatch f g s done).map ReadEvent.elem
      = (List.range f.n).filter fun j => (elemLoad f g s j).isOk && done j := by
  rw [readBatch, List.map_filterMap, ← List.filterMap_eq_filter]
  refine List.filterMap_congr fun j _ => ?_
  cases hl : elemLoad f g s j with
  | ok val phys => cases hd : done j <;> simp [Option.guard, Load.isOk, hl, hd]
  | idle | exc | device => simp [Option.guard, Load.isOk, hl]

/-- A batch has one event at most for each of the `n` elements. -/
theorem readBatch_length_le (f : Form) (g : Gather) (s : State) (done : Nat → Bool) :
    (readBatch f g s done).length ≤ f.n := by
  have h := List.length_filter_le (fun j => (elemLoad f g s j).isOk && done j) (List.range f.n)
  rwa [← map_elem_readBatch, List.length_map, List.length_range] at h

/-- No element has two events in a batch. -/
theorem readBatch_nodup (f : Form) (g : Gather) (s : State) (done : Nat → Bool) :
    ((readBatch f g s done).map ReadEvent.elem).Nodup := by
  rw [map_elem_readBatch]
  exact List.nodup_range.filter _

/-- The elements of a batch are those loaded and completed. -/
theorem exists_mem_readBatch {f : Form} {g : Gather} {s : State} {done : Nat → Bool} {j : Nat} :
    (∃ ev ∈ readBatch f g s done, ev.elem = j) ↔ j < f.n ∧ (elemLoad f g s j).isOk = true ∧ done j = true := by
  rw [← List.mem_map, map_elem_readBatch, List.mem_filter, List.mem_range, Bool.and_eq_true]

/-- An event of a batch is that of an active element: the translations of its own four linear bytes, and the bytes the
memory holds there (R60). -/
theorem readBatch_event {f : Form} {g : Gather} {s : State} {done : Nat → Bool} {ev : ReadEvent}
    (h : ev ∈ readBatch f g s done) :
    ev.elem < f.n ∧ maskBit (s.vreg g.mask) ev.elem = true ∧ ev.phys.length = 4
      ∧ ∃ la, lin s g.seg (effAddr f g s ev.elem) = .ok la
        ∧ ∀ b, b < 4 → ∃ a, ev.phys[b]? = some a
            ∧ s.translate (wrapLinear s.mode (la + BitVec.ofNat 64 b)) = .phys a
            ∧ ev.val.extractLsb' (8 * b) 8 = s.mem.read a.toNat := by
  obtain ⟨hlt, -, hl⟩ := mem_readBatch.1 h
  obtain ⟨ha, la, hlin, hread⟩ := (elemLoad_eq_iff (by simp) (by simp)).1 hl
  obtain ⟨hlen, hbytes⟩ := State.memRead_eq_ok_iff_bytes.1 hread
  refine ⟨hlt, (active_iff.1 ha).2, hlen, la, hlin, fun b hb => ?_⟩
  obtain ⟨a, hget, htr, -, hval⟩ := hbytes b hb
  exact ⟨a, hget, htr, hval⟩

/-- R120: the number of elements, by the instruction. -/
theorem Instr.form_n_eq (i : Instr) :
    i.form.n = match i with
      | .vgatherdps128 _ => 4
      | .vgatherdps256 _ => 8
      | .vgatherqps128 _ => 2
      | .vgatherqps256 _ => 4 := by
  cases i <;> rfl

/-- Settles O35: the batch of a fault exit is that of `gathered`, the batch at completion that of every active element. -/
theorem readsAreActiveElementsOnly : Obligations.ReadsAreActiveElementsOnly := by
  intro i s t h
  rcases exec_next_cases h with ⟨-, hu, rfl⟩ | ⟨-, -, hts, rfl⟩ | ⟨hr, hd, k, e, hf, rfl⟩ | ⟨hr, hd, hf, rfl⟩
  · refine ⟨rfl, fun _ => rfl, fun hr => ?_⟩
    obtain ⟨-, hu', -⟩ := hr.checks
    cases hu.symm.trans hu'
  · refine ⟨rfl, fun _ => rfl, fun hr => ?_⟩
    obtain ⟨-, -, hts'⟩ := hr.checks
    cases hts.symm.trans hts'
  · refine ⟨by simp [faultExit], fun hnr => absurd hr hnr, fun _ =>
      ⟨readBatch i.form i.gather s (gathered i.form i.gather s k), faultExitWith_reads _ _ _ _ _ _,
        (readBatch_length_le _ _ _ _).trans_eq (Instr.form_n_eq i), readBatch_nodup _ _ _ _, fun j => ?_,
        fun ev => readBatch_event⟩⟩
    rw [hf, exists_mem_readBatch]
    exact and_congr_right fun _ => and_iff_right_of_imp isOk_of_gathered
  · refine ⟨rfl, fun hnr => absurd hr hnr, fun _ =>
      ⟨readBatch i.form i.gather s fun _ => true, rfl,
        (readBatch_length_le _ _ _ _).trans_eq (Instr.form_n_eq i), readBatch_nodup _ _ _ _, fun j => ?_,
        fun ev => readBatch_event⟩⟩
    rw [hf, exists_mem_readBatch]
    constructor
    · rintro ⟨-, hok, -⟩
      exact active_of_isOk hok
    · intro ha
      obtain ⟨hlt, -⟩ := active_iff.1 ha
      exact ⟨hlt, loadable_iff.2 ⟨hd, hf⟩ j hlt ha, rfl⟩

end Sys2Proof.Machine
end

section
/-! SUPPORT. Completion (40_gather_common R131 to R135; 20_memory R64, R67): the destination's elements and tail, the empty
mask, and that nothing of an inactive element is seen. -/

namespace Sys2Proof.Machine

/-! ## The destination at completion (R131, R133) -/

/-- A register whose elements from `n` up are zero has no bit set from there up. -/
theorem ofElems_ushiftRight_eq_zero (w : Nat) {n : Nat} {e : Nat → Dword} (h : ∀ j, n ≤ j → e j = 0#32) :
    (ofElems w e).bits >>> (32 * n) = 0 := by
  change BitVec.ofNat w (packElems e (w / 32)) >>> (32 * n) = 0#w
  apply BitVec.eq_of_getLsbD_eq
  intro k _
  simp [BitVec.getLsbD_ofNat, testBit_packElems, h ((32 * n + k) / 32) (by omega)]

/-- R131: a gathered element is the one loaded, or kept if it is inactive. -/
theorem elem32_complete_dest {f : Form} {g : Gather} (s : State) (h : g.overlaps = false) {j : Nat} (hj : j < f.n) :
    elem32 ((complete f g s).vreg g.dest) j
      = if active f g s j then (elemLoad f g s j).value else elem32 (s.vreg g.dest) j := by
  rw [complete_vreg_dest s h, elem32_ofElems _ (hj.trans_le (Form.n_le_vlmax f _)), destAtCompletion, if_pos hj]

/-- R133: above the gathered elements the destination is zero. -/
theorem complete_dest_tail {f : Form} {g : Gather} (s : State) (h : g.overlaps = false) :
    ((complete f g s).vreg g.dest).bits >>> (32 * f.n) = 0 := by
  rw [complete_vreg_dest s h]
  exact ofElems_ushiftRight_eq_zero _ fun j hj => if_neg hj.not_gt

/-! ## The empty mask (R135) -/

/-- Without an active element nothing is read. -/
theorem readBatch_of_inactive {f : Form} {g : Gather} {s : State} (h : ∀ j, active f g s j = false)
    (done : Nat → Bool) : readBatch f g s done = [] := by
  simp [readBatch, elemLoad_of_inactive (h _)]

/-- Settles O28: no element is active, so every active one loads, and the gather completes with an empty batch. -/
theorem emptyMaskAccessesNothing : Obligations.EmptyMaskAccessesNothing := by
  intro i s hr hempty
  have hinactive : ∀ j, active i.form i.gather s j = false := by
    intro j
    refine Bool.eq_false_iff.2 fun ha => ?_
    obtain ⟨hlt, hbit⟩ := active_iff.1 ha
    exact Bool.eq_false_iff.1 (hempty j hlt) hbit
  have hx := exec_of_loadable hr fun j _ ha => absurd ha (Bool.eq_false_iff.1 (hinactive j))
  obtain ⟨-, -, hover⟩ := hr
  refine ⟨_, hx, rfl, fun j hj => ?_, ?_, complete_dest_tail s hover, complete_vreg_mask _ _ s, ?_⟩
  · rw [elem32_complete_dest s hover hj, hinactive j]
    rfl
  · rw [complete_vreg_dest s hover, ofElems_width]
  · rw [complete_reads, readBatch_of_inactive hinactive]

/-! ## Inactive elements (R64, R67) -/

/-- The state with another memory, another translation and another `IoAddrs`. -/
def State.withMemory (m : Memory) (tr : List TransEntry) (io : List Range) (s : State) : State :=
  { s with mem := m, trans := tr, io := io }

/-- Completion sees memory, translation and `IoAddrs` through the outcomes of the elements alone. -/
theorem complete_withMemory {f : Form} {g : Gather} {s : State} {m : Memory} {tr : List TransEntry} {io : List Range}
    (h : elemLoad f g (s.withMemory m tr io) = elemLoad f g s) :
    complete f g (s.withMemory m tr io) = (complete f g s).withMemory m tr io := by
  have hdest : destAtCompletion f g (s.withMemory m tr io) = destAtCompletion f g s := by
    unfold destAtCompletion
    rw [h]
    rfl
  have hbatch : readBatch f g (s.withMemory m tr io) = readBatch f g s := by
    unfold readBatch
    rw [h]
  rw [complete, hdest, hbatch]
  rfl

/-- Settles O36: an inactive element is idle in both states, so all loads agree and both gathers complete. -/
theorem inactiveElementsMakeNoDifference : Obligations.InactiveElementsMakeNoDifference := by
  intro i s m tr io hr hl hsame
  have hload : elemLoad i.form i.gather (s.withMemory m tr io) = elemLoad i.form i.gather s := by
    funext j
    cases ha : active i.form i.gather s j with
    | true => exact hsame j ha
    | false => exact (elemLoad_of_inactive (s := s.withMemory m tr io) ha).trans (elemLoad_of_inactive ha).symm
  have hl' : (s.withMemory m tr io).loadable i.form i.gather := fun j hj ha => hload ▸ hl j hj ha
  refine ⟨_, exec_of_loadable hr hl, (exec_of_loadable (s := s.withMemory m tr io) hr hl').trans ?_⟩
  exact congrArg Host.Outcome.next (complete_withMemory hload)

end Sys2Proof.Machine
end

section
/-! SUPPORT. Privilege (20_memory R59, 60_exceptions R205): the privilege level is seen through `Translate` alone. -/

namespace Sys2Proof.Machine

/-- The state at another privilege level. -/
def State.atCpl (c : BitVec 2) (s : State) : State := { s with cpl := c }

section
variable {s : State} {c : BitVec 2}

/-- With paging off, no translation is in force at any level. -/
theorem State.entriesAt_paging_eq (h : s.ctl.pg = false ∨ entriesAt c s.trans = entriesAt s.cpl s.trans) :
    entriesAt c s.paging = entriesAt s.cpl s.paging := by
  unfold State.paging
  split
  case isTrue hpg => exact h.resolve_left (by simp [hpg])
  case isFalse => rfl

variable (h : entriesAt c s.paging = entriesAt s.cpl s.paging)
include h

/-- Equal entries at both levels are equal translations. -/
theorem State.translate_atCpl : (s.atCpl c).translate = s.translate := by
  funext la
  calc (s.atCpl c).translate la
      = Machine.translate (entriesAt c s.paging) la 0 := (translate_entriesAt c 0 la s.paging).symm
    _ = s.translate la := by rw [h]; exact s.translate_architectural la 0

theorem State.memRead_atCpl : (s.atCpl c).memRead = s.memRead := by
  have htr := State.translate_atCpl h
  have hfaults : (s.atCpl c).pageFaults = s.pageFaults := by
    unfold State.pageFaults
    rw [htr]
    rfl
  have hphys : (s.atCpl c).physAddrs = s.physAddrs := by
    unfold State.physAddrs
    rw [htr]
    rfl
  unfold State.memRead
  rw [hfaults, hphys]
  rfl

theorem elemLoad_atCpl (f : Form) (g : Gather) : elemLoad f g (s.atCpl c) = elemLoad f g s := by
  unfold elemLoad
  rw [State.memRead_atCpl h]
  rfl

/-- R140: the completed elements to the left are chosen by the translations in force, not by the level. -/
theorem drawsOf_atCpl (f : Form) (g : Gather) : drawsOf f g (s.atCpl c) = drawsOf f g s := by
  have harch : (s.atCpl c).architectural = s.architectural := by
    unfold State.architectural
    rw [show entriesAt (s.atCpl c).cpl (s.atCpl c).paging = entriesAt s.cpl s.paging from h]
    rfl
  unfold drawsOf
  rw [harch]
  rfl

theorem completed_atCpl (d : Draws) (f : Form) (g : Gather) : completed d f g (s.atCpl c) = completed d f g s := by
  unfold completed
  rw [elemLoad_atCpl h]

theorem complete_atCpl (f : Form) (g : Gather) : complete f g (s.atCpl c) = (complete f g s).atCpl c := by
  unfold complete destAtCompletion readBatch
  rw [elemLoad_atCpl h]
  rfl

theorem partialUpdate_atCpl (d : Draws) (f : Form) (g : Gather) (ef : Nat) :
    partialUpdate d f g (s.atCpl c) ef = (partialUpdate d f g s ef).atCpl c := by
  unfold partialUpdate destAtFault maskAtFault readBatch
  rw [completed_atCpl h, elemLoad_atCpl h]
  rfl

theorem faultExit_atCpl (f : Form) (g : Gather) (ef : Nat) (e : ElemExc) :
    faultExit f g (s.atCpl c) ef e = (faultExit f g s ef e).atCpl c := by
  have hpending : pendingFor f g (s.atCpl c) (completedSet (drawsOf f g s) f g (s.atCpl c) ef)
      = pendingFor f g s (completedSet (drawsOf f g s) f g s ef) := by
    unfold completedSet
    rw [completed_atCpl h]
    rfl
  unfold faultExit faultExitWith
  rw [drawsOf_atCpl h, partialUpdate_atCpl h, hpending]
  cases pendingFor f g s (completedSet (drawsOf f g s) f g s ef) with
  | some ev => rfl
  | none => cases e <;> rfl

end

/-- Settles O54: the execution commutes with a change of the level. -/
theorem privilegeEntersOnlyThroughTranslate : Obligations.PrivilegeEntersOnlyThroughTranslate := by
  intro i s c h
  have hent := State.entriesAt_paging_eq h
  exact exec_commutes (State.atCpl c) rfl (elemLoad_atCpl hent _ _) rfl rfl (faultExit_atCpl hent _ _)
    (complete_atCpl hent _ _)

end Sys2Proof.Machine
end

section
/-! SUPPORT. The decoder's tests in turn (30_encoding R83, R107, R109): the bytes before the VEX escape, the fixed bits of
the four encodings, and what it answers to anything else. -/

namespace Sys2Proof

open Machine

/-! ## Bytes before the VEX escape (R83) -/

/-- R83: the bytes the decoder forbids are LOCK, 66H, F2H, F3H, and REX in `Mode64`. -/
theorem isForbidden_iff {mode : Mode} {b : Byte} : isForbidden mode b = true ↔ forbiddenByte mode b := by
  have rex : b.extractLsb' 4 4 = 4#4 ↔ 0x40 ≤ b.toNat ∧ b.toNat ≤ 0x4F := by
    rw [← BitVec.toNat_inj, BitVec.extractLsb'_toNat, Nat.shiftRight_eq_div_pow]
    change b.toNat / 2 ^ 4 % 2 ^ 4 = 4 ↔ _
    have hb := b.isLt
    omega
  simp [isForbidden, rex, or_assoc]

/-- R83: no forbidden byte is 67H or a segment override. -/
theorem not_legacy_of_forbiddenByte {mode : Mode} {b : Byte} (h : forbiddenByte mode b) :
    b ≠ 0x67#8 ∧ segOfByte b = none := by
  rcases h with rfl | rfl | rfl | rfl | ⟨-, hlo, hhi⟩
  · decide
  · decide
  · decide
  · decide
  · revert b
    decide

/-- R109: past admitted legacy bytes the decoder goes on at the next byte, or past the next byte if that is forbidden. -/
theorem decode_of_prior {mode : Mode} (hm : mode ≠ .code16) {legacy prior : List Byte} {c : Byte}
    (hleg : admittedLegacy legacy = true)
    (h : (prior = [] ∧ c ≠ 0x67#8 ∧ segOfByte c = none ∧ ¬ forbiddenByte mode c)
      ∨ ∃ b, prior = [b] ∧ forbiddenByte mode b) (enabled : Bool) (cfg : Vvvv3) (rest : List Byte) :
    ∃ l, decode mode enabled cfg (legacy ++ prior ++ c :: rest)
      = decodeVex mode enabled cfg l (!prior.isEmpty) (c :: rest) := by
  rcases h with ⟨rfl, h67, hseg, hf⟩ | ⟨b, rfl, hf⟩
  · obtain ⟨l, hscan, -⟩ := scanLegacy_of_admitted hleg h67 hseg rest
    exact ⟨l, by simp [decode, hm, hscan, mt isForbidden_iff.1 hf]⟩
  · obtain ⟨h67, hseg⟩ := not_legacy_of_forbiddenByte hf
    obtain ⟨l, hscan, -⟩ := scanLegacy_of_admitted hleg h67 hseg (c :: rest)
    exact ⟨l, by simp [decode, hm, hscan, isForbidden_iff.2 hf]⟩

/-- The VEX escape is no legacy byte and not forbidden. -/
theorem vexEscape_not_legacy (mode : Mode) :
    0xC4#8 ≠ 0x67#8 ∧ segOfByte 0xC4#8 = none ∧ ¬ forbiddenByte mode 0xC4#8 := by
  cases mode <;> decide

/-- R109: over admitted legacy bytes the first loop goes on, having seen the 67H and the override among them. -/
theorem scanLegacy_append_of_admitted {legacy : List Byte} (h : admittedLegacy legacy = true) :
    ∃ l, (∀ rest, scanLegacy { count := 0, has67 := false, seg := none } (legacy ++ rest) = scanLegacy l rest)
      ∧ (0x67#8 ∈ legacy → l.has67 = true) ∧ ((∃ b ∈ legacy, (segOfByte b).isSome = true) → l.seg.isSome = true) := by
  have h67seg : segOfByte 0x67#8 = none := by decide
  match legacy, h with
  | [], _ => exact ⟨_, fun _ => rfl, by simp, by simp⟩
  | [a], h =>
    simp only [admittedLegacy, Bool.or_eq_true, beq_iff_eq, Option.isSome_iff_exists] at h
    rcases h with rfl | ⟨sg, ha⟩
    · exact ⟨_, fun _ => scanLegacy_addressSize rfl _, by simp, by simp [h67seg]⟩
    · exact ⟨_, fun _ => scanLegacy_segment ha rfl _, by simp [(ne_of_segOfByte ha).symm], by simp⟩
  | [a, c], h =>
    simp only [admittedLegacy, Bool.or_eq_true, Bool.and_eq_true, beq_iff_eq, Option.isSome_iff_exists] at h
    rcases h with ⟨rfl, sg, hc⟩ | ⟨⟨sg, ha⟩, rfl⟩
    · exact ⟨_, fun _ => (scanLegacy_addressSize rfl _).trans (scanLegacy_segment hc rfl _), by simp, by simp⟩
    · exact ⟨_, fun _ => (scanLegacy_segment ha rfl _).trans (scanLegacy_addressSize rfl _), by simp, by simp⟩

/-- R83, R109: a second 67H or a second segment override is refused. -/
theorem decode_of_repeated {mode : Mode} (hm : mode ≠ .code16) {legacy : List Byte} {b : Byte}
    (hleg : admittedLegacy legacy = true)
    (h : (b = 0x67#8 ∧ 0x67#8 ∈ legacy)
      ∨ ((segOfByte b).isSome = true ∧ ∃ b' ∈ legacy, (segOfByte b').isSome = true))
    (enabled : Bool) (cfg : Vvvv3) (rest : List Byte) :
    ∃ r, decode mode enabled cfg (legacy ++ b :: rest) = .reject r := by
  obtain ⟨l, hscan, h67, hseg⟩ := scanLegacy_append_of_admitted hleg
  rcases h with ⟨rfl, hmem⟩ | ⟨hb, hmem⟩
  · exact ⟨.repeatedAddressSize, by simp [decode, hm, hscan, scanLegacy, h67 hmem]⟩
  · obtain ⟨sg, hsg⟩ := Option.isSome_iff_exists.1 hb
    exact ⟨.repeatedSegment, by simp [decode, hm, hscan, scanLegacy, ne_of_segOfByte hsg, hsg, hseg hmem]⟩

/-! ## One of the four encodings (R109, R110) -/

theorem Mode.executes_iff {mode : Mode} : mode.executes = true ↔ mode = .mode64 ∨ mode = .mode32 := by
  cases mode <;> decide

theorem headOk_iff {mode : Mode} {v1 v2 op : Byte} :
    headOk mode v1 v2 op = true ↔
      (mode = .mode64 ∨ mode = .mode32 ∧ v1.extractLsb' 6 2 = 3#2) ∧ headBits v1 v2 op = true := by
  simp [headOk]

theorem headBits_iff {v1 v2 op : Byte} :
    headBits v1 v2 op = true ↔ v1.extractLsb' 0 5 = 2#5 ∧ v2.extractLsb' 0 2 = 1#2 ∧ (op = 0x92#8 ∨ op = 0x93#8)
      ∧ v2.extractLsb' 7 1 = 0#1 := by
  simp [headBits, and_assoc]

theorem executes_of_headOk {mode : Mode} {v1 v2 op : Byte} (h : headOk mode v1 v2 op = true) : mode.executes = true := by
  rcases (headOk_iff.1 h).1 with rfl | ⟨rfl, -⟩ <;> rfl

/-- R109 past the opcode of one of the four encodings in a mode that executes them: #UD after a forbidden byte, where the
encodings are not enabled, or at a 16-bit address size; otherwise the operands are read. -/
theorem decodeVex_of_headOk {mode : Mode} {v1 v2 op : Byte} (h : headOk mode v1 v2 op = true) (enabled : Bool)
    (cfg : Vvvv3) (l : Legacy) (forbidden : Bool) (rest : List Byte) :
    decodeVex mode enabled cfg l forbidden (0xC4#8 :: v1 :: v2 :: op :: rest) =
      if forbidden = true ∨ enabled = false then .ud
      else (addrSize mode l.has67).elim .ud (fun a => decodeOperands mode cfg l a v1 v2 op rest) := by
  obtain ⟨hv1, hhead⟩ := headOk_iff.1 h
  obtain ⟨hmap, hpp, hop, hw⟩ := headBits_iff.1 hhead
  have hrecognised : ¬ (mode ≠ .mode64 ∧ v1.extractLsb' 6 2 ≠ 3#2) := by tauto
  have hopcode : ¬ (op ≠ 0x92#8 ∧ op ≠ 0x93#8) := by tauto
  simp only [decodeVex_cons, hrecognised, hmap, hpp, hopcode, hw, executes_of_headOk h]
  cases forbidden <;> simp

/-! ## What is not one of them (R103, R104, R107) -/

/-- R84, R86, R107: the fixed bits of another encoding are refused, after a forbidden byte too. -/
theorem decodeVex_of_neighbour {mode : Mode} {v1 v2 op : Byte}
    (h : v1.extractLsb' 0 5 ≠ 2#5 ∨ v2.extractLsb' 0 2 ≠ 1#2 ∨ (op ≠ 0x92#8 ∧ op ≠ 0x93#8) ∨ v2.extractLsb' 7 1 = 1#1
      ∨ (mode ≠ .mode64 ∧ v1.extractLsb' 6 2 ≠ 3#2)) (enabled : Bool) (cfg : Vvvv3) (l : Legacy) (forbidden : Bool)
    (rest : List Byte) :
    ∃ r, decodeVex mode enabled cfg l forbidden (0xC4#8 :: v1 :: v2 :: op :: rest) = .reject r := by
  rw [decodeVex_cons]
  by_cases hv1 : mode ≠ .mode64 ∧ v1.extractLsb' 6 2 ≠ 3#2
  · exact ⟨_, if_pos hv1⟩
  by_cases hmap : v1.extractLsb' 0 5 ≠ 2#5 ∨ v2.extractLsb' 0 2 ≠ 1#2
  · exact ⟨_, by rw [if_neg hv1, if_pos hmap]⟩
  by_cases hop : op ≠ 0x92#8 ∧ op ≠ 0x93#8
  · exact ⟨_, by rw [if_neg hv1, if_neg hmap, if_pos hop]⟩
  have hw : v2.extractLsb' 7 1 = 1#1 := by tauto
  exact ⟨_, by rw [if_neg hv1, if_neg hmap, if_neg hop, if_pos hw]⟩

/-- R109: where the escape should stand, a byte other than C4H is refused. -/
theorem decodeVex_of_ne {c : Byte} (hc : c ≠ 0xC4#8) (mode : Mode) (enabled : Bool) (cfg : Vvvv3) (l : Legacy)
    (forbidden : Bool) (rest : List Byte) :
    decodeVex mode enabled cfg l forbidden (c :: rest) = .reject .notVex := by
  simp [decodeVex, hc]

/-- R103, R104: a ModRM byte with `mod = 11b`, or without a SIB byte, is #UD, and no byte after it is read. -/
theorem decodeOperands_of_not_sib {m : Byte} (h : m.extractLsb' 6 2 = 3#2 ∨ m.extractLsb' 0 3 ≠ 4#3) (mode : Mode)
    (cfg : Vvvv3) (l : Legacy) (a : AddrSize) (v1 v2 op : Byte) (rest : List Byte) :
    decodeOperands mode cfg l a v1 v2 op (m :: rest) = .ud := by
  unfold decodeOperands
  by_cases hmod : m.extractLsb' 6 2 = 3#2
  · exact if_pos hmod
  · exact (if_neg hmod).trans (if_pos (h.resolve_left hmod))

end Sys2Proof
end

section
/-! SUPPORT. The round trip of encoder and decoder (30_encoding R81 to R100, R109): the encoder's bytes by their fields, and
what the decoder reads from each. -/

namespace Sys2Proof

open Machine

/-! ## Well-formed instructions, check by check -/

theorem Gather.regsReachable_iff {mode : Mode} {g : Gather} :
    g.regsReachable mode = true ↔
      mode = .mode64 ∨ g.dest < 8 ∧ g.index < 8 ∧ g.mask < 8 ∧ ∀ b, g.base = some b → b < 8 := by
  unfold Gather.regsReachable
  cases g.base <;> simp [and_assoc]

theorem Gather.segReachable_iff {mode : Mode} {g : Gather} :
    g.segReachable mode = true ↔ (mode = .mode64 → g.seg = .fs ∨ g.seg = .gs ∨ g.seg = defaultSeg g.base) := by
  simp [Gather.segReachable, imp_iff_not_or, or_assoc]

theorem Gather.sizeReachable_iff {mode : Mode} {g : Gather} :
    g.sizeReachable mode = true ↔ mode = .mode64 ∨ g.asize = .a32 := by
  simp [Gather.sizeReachable]

theorem Gather.overlaps_iff {g : Gather} :
    g.overlaps = true ↔ g.dest = g.index ∨ g.dest = g.mask ∨ g.index = g.mask := by
  simp [Gather.overlaps, or_assoc]

theorem Instr.wf_iff {mode : Mode} {i : Instr} :
    i.wf mode = true ↔ mode.executes = true ∧ i.gather.overlaps = false ∧ i.gather.regsReachable mode = true
      ∧ i.gather.segReachable mode = true ∧ i.gather.sizeReachable mode = true
      ∧ ∃ n, i.gather.dispBytes mode = some n := by
  simp [Instr.wf, and_assoc, Option.isSome_iff_exists]

/-- R89, R97: the displacement sizes, each with the operands it can hold. -/
theorem Gather.fitsDisp_iff {g : Gather} {n : Nat} :
    g.fitsDisp n = true ↔
      (n = 0 ∧ g.disp = 0#64 ∧ ∃ b, g.base = some b ∧ (regBits b).extractLsb' 0 3 ≠ 5#3)
        ∨ (n = 1 ∧ g.disp = extendDisp g.asize (g.disp.setWidth 8) ∧ ∃ b, g.base = some b)
        ∨ (n = 4 ∧ g.disp = extendDisp g.asize (g.disp.setWidth 32)) := by
  unfold Gather.fitsDisp
  split <;> simp_all

/-- R81: the legacy bytes needed, and at most one override beside them. -/
theorem Gather.fitsLength_iff {mode : Mode} {g : Gather} {n : Nat} :
    g.fitsLength mode n = true ↔
      g.need67 mode + g.needSeg + 6 + n ≤ g.len ∧ g.len ≤ g.need67 mode + 1 + 6 + n := by
  simp [Gather.fitsLength]

/-- The displacement size the encoder takes can hold the operands and leaves the length its room. -/
theorem Gather.fits_of_dispBytes {mode : Mode} {g : Gather} {n : Nat} (h : g.dispBytes mode = some n) :
    g.fitsDisp n = true ∧ g.fitsLength mode n = true :=
  Bool.and_eq_true_iff.1 (List.find?_some (p := fun n => g.fitsDisp n && g.fitsLength mode n) h)

/-! ## The encoder's bytes by their fields -/

/-- R84: the first byte after the VEX escape. -/
def Gather.vexV1 (g : Gather) : Byte :=
  ~~~((regBits g.dest).extractLsb' 3 1) ++ ~~~((regBits g.index).extractLsb' 3 1)
    ++ ~~~((regBits (g.base.getD 0)).extractLsb' 3 1) ++ 2#5

/-- R84: the second byte after the VEX escape. -/
def Gather.vexV2 (g : Gather) (f : Form) : Byte := 0#1 ++ ~~~(regBits g.mask) ++ f.vexL ++ 1#2

/-- R88: the ModRM byte, where the displacement has `n` bytes. -/
def Gather.modRM (g : Gather) (n : Nat) : Byte := modField g n ++ (regBits g.dest).extractLsb' 0 3 ++ 4#3

/-- R90, R96: the `base` field of the SIB byte. -/
def Gather.sibBase (g : Gather) : BitVec 3 := g.base.elim 5#3 fun b => (regBits b).extractLsb' 0 3

/-- R90: the SIB byte. -/
def Gather.sib (g : Gather) : Byte := g.scale.field ++ (regBits g.index).extractLsb' 0 3 ++ g.sibBase

theorem encodeVex_append (f : Form) (g : Gather) (rest : List Byte) :
    encodeVex f g ++ rest = 0xC4#8 :: g.vexV1 :: g.vexV2 f :: f.opcode :: rest := rfl

theorem encodeOperands_append (g : Gather) (n : Nat) (rest : List Byte) :
    encodeOperands g n ++ rest = g.modRM n :: g.sib :: (encodeDisp g.disp n ++ rest) := by
  unfold encodeOperands Gather.sib Gather.sibBase
  cases g.base <;> rfl

/-- The encoder's bytes: legacy bytes, VEX escape to opcode, ModRM, SIB, displacement. -/
theorem encode_append {mode : Mode} {i : Instr} {n : Nat} (h : i.gather.dispBytes mode = some n) (rest : List Byte) :
    encode mode i ++ rest = encodeLegacy mode i.gather n
      ++ 0xC4#8 :: i.gather.vexV1 :: i.gather.vexV2 i.form :: i.form.opcode :: i.gather.modRM n :: i.gather.sib
        :: (encodeDisp i.gather.disp n ++ rest) := by
  simp only [encode, h, List.append_assoc]
  rw [encodeOperands_append, encodeVex_append]

/-- The fields of V1. -/
theorem Gather.vexV1_fields (g : Gather) :
    g.vexV1.extractLsb' 7 1 = ~~~((regBits g.dest).extractLsb' 3 1)
      ∧ g.vexV1.extractLsb' 6 1 = ~~~((regBits g.index).extractLsb' 3 1)
      ∧ g.vexV1.extractLsb' 5 1 = ~~~((regBits (g.base.getD 0)).extractLsb' 3 1)
      ∧ g.vexV1.extractLsb' 6 2
        = ~~~((regBits g.dest).extractLsb' 3 1) ++ ~~~((regBits g.index).extractLsb' 3 1)
      ∧ g.vexV1.extractLsb' 0 5 = 2#5 ∧ g.vexV1 &&& 0x1F#8 = 0x02#8 := by
  have fields : ∀ r x b : BitVec 1, (r ++ x ++ b ++ 2#5).extractLsb' 7 1 = r ∧ (r ++ x ++ b ++ 2#5).extractLsb' 6 1 = x
      ∧ (r ++ x ++ b ++ 2#5).extractLsb' 5 1 = b ∧ (r ++ x ++ b ++ 2#5).extractLsb' 6 2 = r ++ x
      ∧ (r ++ x ++ b ++ 2#5).extractLsb' 0 5 = 2#5 ∧ (r ++ x ++ b ++ 2#5) &&& 0x1F#8 = 0x02#8 := by decide
  exact fields _ _ _

/-- The fields of V2. -/
theorem Gather.vexV2_fields (g : Gather) (f : Form) :
    (g.vexV2 f).extractLsb' 3 4 = ~~~(regBits g.mask) ∧ (g.vexV2 f).extractLsb' 6 1 = ~~~((regBits g.mask).extractLsb' 3 1)
      ∧ (g.vexV2 f).extractLsb' 2 1 = f.vexL ∧ (g.vexV2 f).extractLsb' 0 2 = 1#2 ∧ (g.vexV2 f).extractLsb' 7 1 = 0#1
      ∧ g.vexV2 f &&& 0x87#8 = 0#5 ++ f.vexL ++ 1#2 := by
  have fields : ∀ (k : BitVec 4) (l : BitVec 1), (0#1 ++ ~~~k ++ l ++ 1#2).extractLsb' 3 4 = ~~~k
      ∧ (0#1 ++ ~~~k ++ l ++ 1#2).extractLsb' 6 1 = ~~~(k.extractLsb' 3 1)
      ∧ (0#1 ++ ~~~k ++ l ++ 1#2).extractLsb' 2 1 = l ∧ (0#1 ++ ~~~k ++ l ++ 1#2).extractLsb' 0 2 = 1#2
      ∧ (0#1 ++ ~~~k ++ l ++ 1#2).extractLsb' 7 1 = 0#1
      ∧ (0#1 ++ ~~~k ++ l ++ 1#2) &&& 0x87#8 = 0#5 ++ l ++ 1#2 := by decide
  exact fields _ _

/-- The fields of ModRM. -/
theorem Gather.modRM_fields (g : Gather) (n : Nat) :
    (g.modRM n).extractLsb' 6 2 = modField g n ∧ (g.modRM n).extractLsb' 3 3 = (regBits g.dest).extractLsb' 0 3
      ∧ (g.modRM n).extractLsb' 0 3 = 4#3 ∧ g.modRM n &&& 0x07#8 = 0x04#8
      ∧ (g.modRM n &&& 0xC0#8 = 0xC0#8 → modField g n = 3#2) := by
  have fields : ∀ (m : BitVec 2) (r : BitVec 3), (m ++ r ++ 4#3).extractLsb' 6 2 = m ∧ (m ++ r ++ 4#3).extractLsb' 3 3 = r
      ∧ (m ++ r ++ 4#3).extractLsb' 0 3 = 4#3 ∧ (m ++ r ++ 4#3) &&& 0x07#8 = 0x04#8
      ∧ ((m ++ r ++ 4#3) &&& 0xC0#8 = 0xC0#8 → m = 3#2) := by decide
  exact fields _ _

/-- The fields of SIB. -/
theorem Gather.sib_fields (g : Gather) :
    g.sib.extractLsb' 6 2 = g.scale.field ∧ g.sib.extractLsb' 3 3 = (regBits g.index).extractLsb' 0 3
      ∧ g.sib.extractLsb' 0 3 = g.sibBase := by
  have fields : ∀ (s : BitVec 2) (x b : BitVec 3), (s ++ x ++ b).extractLsb' 6 2 = s ∧ (s ++ x ++ b).extractLsb' 3 3 = x
      ∧ (s ++ x ++ b).extractLsb' 0 3 = b := by decide
  exact fields _ _ _

/-! ## Registers, scale, form and displacement, there and back -/

theorem scaleOfField_field (s : Scale) : scaleOfField s.field = s := by cases s <;> rfl

theorem segOfByte_byte (sg : Seg) : segOfByte sg.byte = some sg := by cases sg <;> rfl

/-- R92: a register the mode can name comes back from its inverted extension bit and its three-bit field. -/
theorem regNumber_regBits {mode : Mode} {r : Fin 16} (h : mode = .mode64 ∨ r < 8) :
    regNumber mode (~~~((regBits r).extractLsb' 3 1)) ((regBits r).extractLsb' 0 3) = r := by
  revert r
  cases mode <;> decide

/-- R86, R92: a mask register the mode can name comes back from `vvvv`, whatever `CFG.MODE32_VVVV3`. -/
theorem maskNumber_regBits {mode : Mode} (cfg : Vvvv3) {r : Fin 16} (h : mode = .mode64 ∨ r < 8) :
    maskNumber mode cfg (~~~(regBits r)) = r := by
  revert r
  cases mode <;> cases cfg <;> decide

/-- R86: a register below 8 has its stored extension bit set. -/
theorem not_extractLsb'_regBits {r : Fin 16} (h : r < 8) : ~~~((regBits r).extractLsb' 3 1) = 1#1 := by
  revert r
  decide

theorem formAt_encode (g : Gather) (f : Form) : formAt (g.vexV2 f) f.opcode = f := by
  obtain ⟨-, -, hl, -⟩ := g.vexV2_fields f
  unfold formAt
  rw [hl]
  cases f <;> rfl

/-- R97: a displacement field is the low part of the displacement it extends to. -/
theorem setWidth_extendDisp {w : Nat} (hw : w ≤ 32) (a : AddrSize) (d : BitVec w) :
    (extendDisp a d).setWidth w = d := by
  ext k hk
  cases a <;> simp [extendDisp, BitVec.getLsbD_signExtend, hk] <;> omega

/-- R97: the displacement read back from its bytes. -/
theorem readDisp_encodeDisp {g : Gather} {n : Nat} (h : g.fitsDisp n = true) (rest : List Byte) :
    readDisp g.asize n (encodeDisp g.disp n ++ rest) = some g.disp := by
  rcases Gather.fitsDisp_iff.1 h with ⟨rfl, hd, -⟩ | ⟨rfl, hd, -⟩ | ⟨rfl, hd⟩
  · rw [hd]
    rfl
  · exact congrArg some hd.symm
  · have hlow : g.disp.extractLsb' 24 8 ++ g.disp.extractLsb' 16 8 ++ g.disp.extractLsb' 8 8 ++ g.disp.extractLsb' 0 8
        = g.disp.setWidth 32 := by
      rw [BitVec.extractLsb'_append_extractLsb'_eq_extractLsb' (show 24 = 16 + 8 from rfl),
        BitVec.extractLsb'_append_extractLsb'_eq_extractLsb' (show 16 = 8 + 8 from rfl),
        BitVec.extractLsb'_append_extractLsb'_eq_extractLsb' (show 8 = 0 + 8 from rfl),
        BitVec.setWidth_eq_extractLsb' (by decide)]
    exact congrArg some ((congrArg (extendDisp g.asize) hlow).trans hd.symm)

end Sys2Proof
end

section
/-! SUPPORT. The round trip of encoder and decoder, put together (30_encoding R81 to R100, R109, R110). -/

namespace Sys2Proof

open Machine

/-! ## The legacy bytes (R83, R99, R100) -/

/-- R100: 67H is needed for the 32-bit address size in `Mode64`, and only there. -/
theorem Gather.need67_eq (mode : Mode) (g : Gather) :
    g.need67 mode = if mode = .mode64 ∧ g.asize = .a32 then 1 else 0 := rfl

theorem Gather.needSeg_eq (g : Gather) : g.needSeg = if g.seg = defaultSeg g.base then 0 else 1 := rfl

/-- The override the encoder writes, if any. -/
def Gather.override (mode : Mode) (g : Gather) (n : Nat) : Option Seg :=
  if g.len = g.need67 mode + 1 + 6 + n then some g.seg else none

/-- What the decoder's first loop has read at the end of the encoder's legacy bytes. -/
def Gather.legacyRead (mode : Mode) (g : Gather) (n : Nat) : Legacy :=
  { count := (encodeLegacy mode g n).length, has67 := decide (g.need67 mode = 1), seg := g.override mode n }

/-- R109: the first loop over the encoder's legacy bytes. -/
theorem scanLegacy_encodeLegacy (mode : Mode) (g : Gather) (n : Nat) (rest : List Byte) :
    scanLegacy { count := 0, has67 := false, seg := none } (encodeLegacy mode g n ++ rest)
      = scanLegacy (g.legacyRead mode n) rest := by
  unfold Gather.legacyRead encodeLegacy Gather.override
  generalize g.need67 mode + 1 + 6 + n = m
  by_cases h67 : g.need67 mode = 1 <;> by_cases hseg : g.len = m <;>
    simp [h67, hseg, scanLegacy_addressSize, scanLegacy_segment (segOfByte_byte g.seg)]

/-- R109: past the encoder's legacy bytes the decoder goes on from the VEX escape. -/
theorem decode_encodeLegacy {mode : Mode} (hm : mode ≠ .code16) (enabled : Bool) (cfg : Vvvv3) (g : Gather) (n : Nat)
    (rest : List Byte) :
    decode mode enabled cfg (encodeLegacy mode g n ++ 0xC4#8 :: rest)
      = decodeVex mode enabled cfg (g.legacyRead mode n) false (0xC4#8 :: rest) := by
  obtain ⟨h67, hseg, hf⟩ := vexEscape_not_legacy mode
  have hscan := (scanLegacy_encodeLegacy mode g n (0xC4#8 :: rest)).trans (scanLegacy_stops _ h67 hseg rest)
  simp [decode, hm, hscan, mt isForbidden_iff.1 hf]

/-- R83: the encoder's legacy bytes are 67H and an override at most. -/
theorem mem_encodeLegacy {mode : Mode} {g : Gather} {n : Nat} {b : Byte} (h : b ∈ encodeLegacy mode g n) :
    b = 0x67#8 ∨ b = g.seg.byte := by
  unfold encodeLegacy at h
  simp only [List.mem_append, List.mem_ite_nil_right, List.mem_singleton] at h
  exact h.imp And.right And.right

theorem length_encodeLegacy_le (mode : Mode) (g : Gather) (n : Nat) : (encodeLegacy mode g n).length ≤ 2 := by
  unfold encodeLegacy
  split_ifs <;> simp

/-- R81: the encoder's legacy bytes fill the length up. -/
theorem length_encodeLegacy {mode : Mode} {g : Gather} {n : Nat} (h : g.fitsLength mode n = true) :
    (encodeLegacy mode g n).length + 6 + n = g.len := by
  obtain ⟨hlo, hhi⟩ := Gather.fitsLength_iff.1 h
  have h67 := g.need67_eq mode
  unfold encodeLegacy
  split_ifs at h67 ⊢ <;> simp <;> omega

theorem operandSeg_none (mode : Mode) (base : Option (Fin 16)) : operandSeg mode none base = defaultSeg base := by
  cases mode <;> rfl

theorem defaultSeg_eq_or (base : Option (Fin 16)) : defaultSeg base = .ss ∨ defaultSeg base = .ds := by
  unfold defaultSeg
  split <;> simp

/-- R99: an override of a segment that `Mode64` can select for this base selects it. -/
theorem operandSeg_mode64_some {sg : Seg} {base : Option (Fin 16)} (h : sg = .fs ∨ sg = .gs ∨ sg = defaultSeg base) :
    operandSeg .mode64 (some sg) base = sg := by
  rcases h with rfl | rfl | rfl
  · rfl
  · rfl
  · rcases defaultSeg_eq_or base with h | h <;> rw [h] <;> exact h

/-- R99: the segment comes back from the override the encoder writes. -/
theorem operandSeg_override {mode : Mode} {g : Gather} {n : Nat} (hm : mode.executes = true)
    (hseg : g.segReachable mode = true) (h : g.fitsLength mode n = true) :
    operandSeg mode (g.override mode n) g.base = g.seg := by
  obtain ⟨hlo, hhi⟩ := Gather.fitsLength_iff.1 h
  unfold Gather.override
  split_ifs with hlen
  · rcases Mode.executes_iff.1 hm with rfl | rfl
    · exact operandSeg_mode64_some (Gather.segReachable_iff.1 hseg rfl)
    · rfl
  · have hdefault : g.seg = defaultSeg g.base := by
      by_contra hne
      rw [g.needSeg_eq, if_neg hne] at hlo
      omega
    rw [operandSeg_none, hdefault]

/-- R100: the address size comes back from the 67H the encoder writes. -/
theorem addrSize_need67 {mode : Mode} {g : Gather} (hm : mode.executes = true) (h : g.sizeReachable mode = true) :
    addrSize mode (decide (g.need67 mode = 1)) = some g.asize := by
  rw [g.need67_eq]
  rcases Gather.sizeReachable_iff.1 h with rfl | ha
  · cases ha : g.asize <;> rfl
  · rw [ha]
    rcases Mode.executes_iff.1 hm with rfl | rfl <;> rfl

/-! ## From the VEX escape to the displacement -/

/-- R84, R87: the encoder's VEX escape and opcode are one of the four encodings. -/
theorem headBits_encode (g : Gather) (f : Form) : headBits g.vexV1 (g.vexV2 f) f.opcode = true := by
  obtain ⟨-, -, -, -, hmap, -⟩ := g.vexV1_fields
  obtain ⟨-, -, -, hpp, hw, -⟩ := g.vexV2_fields f
  exact headBits_iff.2 ⟨hmap, hpp, by cases f <;> decide, hw⟩

/-- R86: outside `Mode64` bits 7:6 of V1 are 11b, because the registers are below 8. -/
theorem headOk_encode {mode : Mode} {g : Gather} (f : Form) (hm : mode.executes = true)
    (h : g.regsReachable mode = true) : headOk mode g.vexV1 (g.vexV2 f) f.opcode = true := by
  refine headOk_iff.2 ⟨?_, headBits_encode g f⟩
  rcases Gather.regsReachable_iff.1 h with rfl | ⟨hdest, hindex, -⟩
  · exact .inl rfl
  · obtain ⟨-, -, -, h62, -⟩ := g.vexV1_fields
    rw [h62, not_extractLsb'_regBits hdest, not_extractLsb'_regBits hindex]
    exact (Mode.executes_iff.1 hm).imp_right fun h32 => ⟨h32, rfl⟩

/-- R89, R96: the encoder's ModRM and SIB have a base register exactly where the operand has one. -/
theorem noBaseAt_encode {g : Gather} {n : Nat} (h : g.fitsDisp n = true) :
    noBaseAt (g.modRM n) g.sib = g.base.isNone := by
  obtain ⟨hmod, -⟩ := g.modRM_fields n
  obtain ⟨-, -, hbase⟩ := g.sib_fields
  rw [noBaseAt, hmod, hbase, Gather.sibBase]
  rcases Gather.fitsDisp_iff.1 h with ⟨rfl, -, b, hb, h5⟩ | ⟨rfl, -, b, hb⟩ | ⟨rfl, -⟩
  · simpa [hb] using fun _ => h5
  · simp [hb, modField]
  · cases hb : g.base <;> simp [hb, modField]

/-- R89: the displacement has as many bytes as the encoder's `mod` says. -/
theorem dispCount_encode {g : Gather} {n : Nat} (h : g.fitsDisp n = true) : dispCount (modField g n) g.base.isNone = n := by
  rcases Gather.fitsDisp_iff.1 h with ⟨rfl, -, b, hb, -⟩ | ⟨rfl, -, b, hb⟩ | ⟨rfl, -⟩
  · simp [hb, modField, dispCount]
  · simp [modField, dispCount]
  · cases hb : g.base <;> simp [hb, modField, dispCount]

theorem modField_ne_three (g : Gather) (n : Nat) : modField g n ≠ 3#2 := by
  unfold modField
  split_ifs <;> decide

/-- R92, R96: the base comes back from V1 and SIB. -/
theorem baseAt_encode {mode : Mode} {g : Gather} {n : Nat} (hr : g.regsReachable mode = true)
    (h : g.fitsDisp n = true) : baseAt mode g.vexV1 (g.modRM n) g.sib = g.base := by
  obtain ⟨-, -, hinverted, -⟩ := g.vexV1_fields
  obtain ⟨-, -, hlow⟩ := g.sib_fields
  unfold baseAt
  rw [noBaseAt_encode h, hinverted, hlow]
  cases hb : g.base with
  | none => rfl
  | some b =>
    have hlt : mode = .mode64 ∨ b < 8 := (Gather.regsReachable_iff.1 hr).imp_right fun ⟨_, _, _, hbase⟩ => hbase b hb
    simpa [Gather.sibBase, hb] using regNumber_regBits hlt

/-- R88 to R100: the operand record read from the encoder's bytes is the record encoded. -/
theorem operandsAt_encode {mode : Mode} (cfg : Vvvv3) {g : Gather} (f : Form) {n : Nat} (hm : mode.executes = true)
    (hr : g.regsReachable mode = true) (hseg : g.segReachable mode = true) (hd : g.fitsDisp n = true)
    (hlen : g.fitsLength mode n = true) :
    operandsAt mode cfg (g.legacyRead mode n) g.asize g.vexV1 (g.vexV2 f) (g.modRM n) g.sib g.disp = g := by
  obtain ⟨hdest', hindex', -⟩ := g.vexV1_fields
  obtain ⟨hvvvv, -⟩ := g.vexV2_fields f
  obtain ⟨hmod, hreg, -⟩ := g.modRM_fields n
  obtain ⟨hscale, hindex, -⟩ := g.sib_fields
  have hlow := Gather.regsReachable_iff.1 hr
  unfold operandsAt Gather.legacyRead
  rw [hdest', hindex', hvvvv, hreg, hmod, hscale, hindex, noBaseAt_encode hd, dispCount_encode hd, baseAt_encode hr hd,
    operandSeg_override hm hseg hlen, length_encodeLegacy hlen, scaleOfField_field,
    regNumber_regBits (hlow.imp_right And.left), regNumber_regBits (hlow.imp_right fun ⟨_, hi, _⟩ => hi),
    maskNumber_regBits cfg (hlow.imp_right fun ⟨_, _, hk, _⟩ => hk)]

/-- R86: the mask registers of `Mode32` have bit 3 of `vvvv` set, whatever `CFG.MODE32_VVVV3`. -/
theorem vvvv3_encode {mode : Mode} {g : Gather} (f : Form) (hr : g.regsReachable mode = true) :
    mode = .mode64 ∨ (g.vexV2 f).extractLsb' 6 1 = 1#1 := by
  obtain ⟨-, h6, -⟩ := g.vexV2_fields f
  rw [h6]
  exact (Gather.regsReachable_iff.1 hr).imp_right fun ⟨_, _, hk, _⟩ => not_extractLsb'_regBits hk

/-- R109 from the ModRM byte on, at the encoder's bytes. -/
theorem decodeOperands_encode {mode : Mode} (cfg : Vvvv3) {g : Gather} (f : Form) {n : Nat} (hm : mode.executes = true)
    (hr : g.regsReachable mode = true) (hseg : g.segReachable mode = true) (hd : g.fitsDisp n = true)
    (hlen : g.fitsLength mode n = true) (rest : List Byte) :
    decodeOperands mode cfg (g.legacyRead mode n) g.asize g.vexV1 (g.vexV2 f) f.opcode
      (g.modRM n :: g.sib :: (encodeDisp g.disp n ++ rest)) = .ok (f.instr g) := by
  obtain ⟨hmod, -, hrm, -⟩ := g.modRM_fields n
  have hvvvv : ¬ (mode ≠ .mode64 ∧ cfg = .ud ∧ (g.vexV2 f).extractLsb' 6 1 = 0#1) := by
    rcases vvvv3_encode f hr with h | h <;> simp [h]
  rw [decodeOperands_cons_cons, hmod, if_neg (modField_ne_three g n), hrm, if_neg (not_not.2 rfl), if_neg hvvvv,
    noBaseAt_encode hd, dispCount_encode hd, readDisp_encodeDisp hd, Option.elim_some, formAt_encode,
    operandsAt_encode cfg f hm hr hseg hd hlen]

theorem Instr.instr_form_gather (i : Instr) : i.form.instr i.gather = i := by cases i <;> rfl

/-- Settles O1: the legacy bytes, the VEX escape with the opcode, and the operands are read back in turn. -/
theorem decodeOfEncodeGivesInstruction : Obligations.DecodeOfEncodeGivesInstruction := by
  intro mode cfg i rest hwf
  obtain ⟨hm, -, hr, hseg, hsize, n, hn⟩ := Instr.wf_iff.1 hwf
  obtain ⟨hd, hlen⟩ := Gather.fits_of_dispBytes hn
  have haddr : addrSize mode (i.gather.legacyRead mode n).has67 = some i.gather.asize := addrSize_need67 hm hsize
  rw [encode_append hn, decode_encodeLegacy (Mode.ne_code16_of_executes hm), decodeVex_of_headOk (headOk_encode i.form hm hr),
    if_neg (by decide), haddr, Option.elim_some, decodeOperands_encode cfg i.form hm hr hseg hd hlen,
    Instr.instr_form_gather]

/-- Settles O2: the legacy bytes are at most 67H and an override, and the fixed bits are fields of the encoder's bytes. -/
theorem encodedBytesMatchTheOpcodeTable : Obligations.EncodedBytesMatchTheOpcodeTable := by
  intro mode i hwf
  obtain ⟨-, -, -, -, -, n, hn⟩ := Instr.wf_iff.1 hwf
  obtain ⟨-, -, -, -, -, hv1⟩ := i.gather.vexV1_fields
  obtain ⟨-, -, -, -, -, hv2⟩ := i.gather.vexV2_fields i.form
  obtain ⟨-, -, -, hrm, hmod⟩ := i.gather.modRM_fields n
  refine ⟨encodeLegacy mode i.gather n, i.gather.sib :: encodeDisp i.gather.disp n, i.gather.vexV1,
    i.gather.vexV2 i.form, i.form.opcode, i.gather.modRM n, ?_, length_encodeLegacy_le mode i.gather n,
    fun b hb => ?_, hv1, hv2.trans ?_, ?_, hrm, fun h => modField_ne_three _ _ (hmod h)⟩
  · simpa using encode_append hn []
  · refine (mem_encodeLegacy hb).imp_right fun h => ?_
    rw [h, segOfByte_byte]
    rfl
  · cases i.form <;> decide
  · cases i.form <;> rfl

end Sys2Proof
end

section
/-! SUPPORT. What the decoder accepts (30_encoding R81, R86, R99, R100, R109): its length, and that it is well-formed. -/

namespace Sys2Proof

open Machine

/-! ## The legacy bytes counted (R83) -/

/-- R83: each legacy byte read is the one 67H or the one segment override. -/
def Legacy.sound (l : Legacy) : Prop := l.count = l.has67.toNat + l.seg.isSome.toNat

/-- R109: the first loop keeps the count sound and accounts for every byte. -/
theorem scanLegacy_sound {bytes rest : List Byte} {l l' : Legacy} (h : scanLegacy l bytes = .ok (l', rest))
    (hl : l.sound) : l'.sound ∧ l'.count + rest.length = l.count + bytes.length := by
  induction bytes generalizing l with
  | nil =>
    cases h
    exact ⟨hl, rfl⟩
  | cons b bytes ih =>
    have next : ∀ l₁ : Legacy, l₁.count = l.count + 1 → l₁.sound → scanLegacy l₁ bytes = .ok (l', rest) →
        l'.sound ∧ l'.count + rest.length = l.count + (b :: bytes).length := by
      intro l₁ hcount hsound hscan
      obtain ⟨hs, hc⟩ := ih hscan hsound
      exact ⟨hs, by rw [hc, hcount, List.length_cons]; omega⟩
    unfold Legacy.sound at hl
    rw [scanLegacy] at h
    split at h
    case isTrue =>
      split at h
      case isTrue => cases h
      case isFalse h67 => exact next _ rfl (by simp [Legacy.sound, hl, h67, Nat.add_comm]) h
    case isFalse =>
      split at h
      case h_1 sg _ =>
        split at h
        case isTrue => cases h
        case isFalse hseg => exact next _ rfl (by simp [Legacy.sound, hl, hseg]) h
      case h_2 =>
        cases h
        exact ⟨hl, rfl⟩

theorem Legacy.sound.count_le {l : Legacy} (h : l.sound) : l.count ≤ 2 := by
  have h67 := l.has67.toNat_le
  have hseg := l.seg.isSome.toNat_le
  unfold Legacy.sound at h
  omega

/-! ## An accepted instruction as the record read (R88 to R100) -/

/-- R109 where it answers an instruction: the legacy bytes counted, and the operand record read past them. -/
theorem decode_ok_operands {mode : Mode} {enabled : Bool} {cfg : Vvvv3} {bytes : List Byte} {i : Instr}
    (h : decode mode enabled cfg bytes = .ok i) :
    ∃ l a v1 v2 m sib rest d, l.sound ∧ l.count + 6 + rest.length = bytes.length ∧ mode.executes = true
      ∧ addrSize mode l.has67 = some a ∧ m.extractLsb' 6 2 ≠ 3#2
      ∧ readDisp a (dispCount (m.extractLsb' 6 2) (noBaseAt m sib)) rest = some d
      ∧ i.gather = operandsAt mode cfg l a v1 v2 m sib d := by
  obtain ⟨l, v1, v2, op, after, a, hscan, -, -, hm, -, ha, hops⟩ := decode_ok h
  obtain ⟨m, sib, rest, d, rfl, hmod, -, -, hd, rfl⟩ := decodeOperands_ok hops
  obtain ⟨hs, hc⟩ := scanLegacy_sound hscan rfl
  simp only [List.length_cons] at hc
  exact ⟨l, a, v1, v2, m, sib, rest, d, hs, by omega, hm, ha, hmod, hd, Form.gather_instr _ _⟩

/-! ## Its length (R81) -/

/-- R89: the displacement has 0, 1 or 4 bytes. -/
theorem dispCount_le (mod : BitVec 2) (noBase : Bool) : dispCount mod noBase ≤ 4 := by
  unfold dispCount
  split_ifs <;> decide

/-- R97: the bytes of a displacement that has been read were there. -/
theorem le_length_of_readDisp {a : AddrSize} {n : Nat} {bytes : List Byte} {d : Qword}
    (h : readDisp a n bytes = some d) : n ≤ bytes.length := by
  unfold readDisp at h
  split at h
  · exact Nat.zero_le _
  · simp
  · simp
  · cases h

/-- Settles O4: the legacy bytes are at most two, six bytes stand from the escape to SIB, and at most four follow. -/
theorem decodedLengthIsSixToTwelve : Obligations.DecodedLengthIsSixToTwelve := by
  intro mode enabled cfg bytes i h
  obtain ⟨l, a, v1, v2, m, sib, rest, d, hs, hlen, -, -, -, hd, hg⟩ := decode_ok_operands h
  have hcount := hs.count_le
  have hdisp := dispCount_le (m.extractLsb' 6 2) (noBaseAt m sib)
  have hrest := le_length_of_readDisp hd
  rw [hg, operandsAt]
  dsimp only
  omega

/-! ## It is well-formed -/

/-- R92: the three-bit field of a register number is the one it was read from. -/
theorem extractLsb'_regBits_regNumber (mode : Mode) (inverted : BitVec 1) (low : BitVec 3) :
    (regBits (regNumber mode inverted low)).extractLsb' 0 3 = low := by
  revert inverted low
  cases mode <;> decide

/-- R97: a displacement that has been read is one its field can hold. -/
theorem readDisp_cases {a : AddrSize} {n : Nat} {bytes : List Byte} {d : Qword} (h : readDisp a n bytes = some d) :
    (n = 0 ∧ d = 0#64) ∨ (n = 1 ∧ d = extendDisp a (d.setWidth 8)) ∨ (n = 4 ∧ d = extendDisp a (d.setWidth 32)) := by
  unfold readDisp at h
  split at h <;> cases h
  · exact .inl ⟨rfl, rfl⟩
  · exact .inr (.inl ⟨rfl, by rw [setWidth_extendDisp (by decide)]⟩)
  · exact .inr (.inr ⟨rfl, by rw [setWidth_extendDisp (by decide)]⟩)

/-- R89, R96: where no displacement follows, there is a base register, and its field is not 101b. -/
theorem noBaseAt_of_dispCount_zero {m sib : Byte} (hmod : m.extractLsb' 6 2 ≠ 3#2)
    (h : dispCount (m.extractLsb' 6 2) (noBaseAt m sib) = 0) :
    noBaseAt m sib = false ∧ sib.extractLsb' 0 3 ≠ 5#3 := by
  have key : ∀ (mod : BitVec 2) (b : BitVec 3), mod ≠ 3#2 → dispCount mod (mod == 0#2 && b == 5#3) = 0 →
      (mod == 0#2 && b == 5#3) = false ∧ b ≠ 5#3 := by decide
  exact key _ _ hmod h

/-- R89, R96: before a displacement of one byte there is a base register. -/
theorem noBaseAt_of_dispCount_one {m sib : Byte} (h : dispCount (m.extractLsb' 6 2) (noBaseAt m sib) = 1) :
    noBaseAt m sib = false := by
  have key : ∀ (mod : BitVec 2) (b : BitVec 3), dispCount mod (mod == 0#2 && b == 5#3) = 1 →
      (mod == 0#2 && b == 5#3) = false := by decide
  exact key _ _ h

theorem baseAt_of_noBaseAt {m sib : Byte} (h : noBaseAt m sib = false) (mode : Mode) (v1 : Byte) :
    baseAt mode v1 m sib = some (regNumber mode (v1.extractLsb' 5 1) (sib.extractLsb' 0 3)) := by
  simp [baseAt, h]

/-- R89, R97: the displacement size read can hold the operands read. -/
theorem fitsDisp_operandsAt {mode : Mode} {cfg : Vvvv3} {l : Legacy} {a : AddrSize} {v1 v2 m sib : Byte}
    {rest : List Byte} {d : Qword} (hmod : m.extractLsb' 6 2 ≠ 3#2)
    (hd : readDisp a (dispCount (m.extractLsb' 6 2) (noBaseAt m sib)) rest = some d) :
    (operandsAt mode cfg l a v1 v2 m sib d).fitsDisp (dispCount (m.extractLsb' 6 2) (noBaseAt m sib)) = true := by
  refine Gather.fitsDisp_iff.2 ?_
  rcases readDisp_cases hd with ⟨hn, hd⟩ | ⟨hn, hd⟩ | ⟨hn, hd⟩
  · obtain ⟨hb, h5⟩ := noBaseAt_of_dispCount_zero hmod hn
    exact .inl ⟨hn, hd, _, baseAt_of_noBaseAt hb mode v1, by rwa [extractLsb'_regBits_regNumber]⟩
  · exact .inr (.inl ⟨hn, hd, _, baseAt_of_noBaseAt (noBaseAt_of_dispCount_one hn) mode v1⟩)
  · exact .inr (.inr ⟨hn, hd⟩)

/-- R99: the segment read is one the mode can select. -/
theorem segReachable_operandsAt (mode : Mode) (cfg : Vvvv3) (l : Legacy) (a : AddrSize) (v1 v2 m sib : Byte)
    (d : Qword) : (operandsAt mode cfg l a v1 v2 m sib d).segReachable mode = true := by
  refine Gather.segReachable_iff.2 ?_
  rintro rfl
  unfold operandsAt
  dsimp only
  rcases l.seg with _ | _ | _ <;> simp [operandSeg]

/-- R100: 67H stands exactly where the address size read needs it. -/
theorem need67_of_addrSize {mode : Mode} {has67 : Bool} {g : Gather} (h : addrSize mode has67 = some g.asize) :
    g.need67 mode = has67.toNat := by
  rw [g.need67_eq]
  generalize g.asize = a at h ⊢
  cases mode <;> cases has67 <;> cases h <;> rfl

/-- R81, R83: the length read leaves room for the legacy bytes the operands need. -/
theorem fitsLength_operandsAt {mode : Mode} (cfg : Vvvv3) {l : Legacy} {a : AddrSize} (v1 v2 m sib : Byte)
    (d : Qword) (hs : l.sound) (ha : addrSize mode l.has67 = some a) :
    (operandsAt mode cfg l a v1 v2 m sib d).fitsLength mode (dispCount (m.extractLsb' 6 2) (noBaseAt m sib)) = true := by
  have h67 : (operandsAt mode cfg l a v1 v2 m sib d).need67 mode = l.has67.toNat := need67_of_addrSize ha
  have hseg : (operandsAt mode cfg l a v1 v2 m sib d).needSeg ≤ l.seg.isSome.toNat := by
    rw [Gather.needSeg_eq]
    cases hl : l.seg with
    | none => simp [operandsAt, hl, operandSeg_none]
    | some sg => split_ifs <;> simp
  have hseg1 := l.seg.isSome.toNat_le
  have hlen : (operandsAt mode cfg l a v1 v2 m sib d).len
    = l.count + 6 + dispCount (m.extractLsb' 6 2) (noBaseAt m sib) := rfl
  unfold Legacy.sound at hs
  rw [Gather.fitsLength_iff]
  omega

/-- R86, R92: outside `Mode64` the registers read are below 8. -/
theorem regsReachable_of_decode {mode : Mode} {enabled : Bool} {cfg : Vvvv3} {bytes : List Byte} {i : Instr}
    (hm : mode.executes = true) (h : decode mode enabled cfg bytes = .ok i) : i.gather.regsReachable mode = true := by
  refine Gather.regsReachable_iff.2 ((Mode.executes_iff.1 hm).imp_right ?_)
  rintro rfl
  obtain ⟨hdest, hindex, hmask, hbase, -⟩ := mode32NamesLowRegistersOnly enabled cfg bytes i h
  exact ⟨hdest, hindex, hmask, hbase⟩

/-- R100: outside `Mode64` the address size read is 32 bits. -/
theorem sizeReachable_of_addrSize {mode : Mode} {has67 : Bool} {g : Gather} (hm : mode.executes = true)
    (h : addrSize mode has67 = some g.asize) : g.sizeReachable mode = true := by
  refine Gather.sizeReachable_iff.2 ((Mode.executes_iff.1 hm).imp_right ?_)
  rintro rfl
  exact addrSize_mode32 h

/-- A displacement size that fits the operands and the length is found. -/
theorem Gather.exists_dispBytes {mode : Mode} {g : Gather} {n : Nat} (hd : g.fitsDisp n = true)
    (hlen : g.fitsLength mode n = true) : ∃ k, g.dispBytes mode = some k := by
  refine Option.isSome_iff_exists.1 (List.find?_isSome.2 ⟨n, ?_, by simp [hd, hlen]⟩)
  rcases Gather.fitsDisp_iff.1 hd with ⟨rfl, -⟩ | ⟨rfl, -⟩ | ⟨rfl, -⟩ <;> decide

/-- Settles O3: every check of `wf` holds of the record read; the displacement size read is one the encoder admits. -/
theorem decodedInstructionIsWellFormed : Obligations.DecodedInstructionIsWellFormed := by
  intro mode enabled cfg bytes i h hover
  obtain ⟨l, a, v1, v2, m, sib, rest, d, hs, -, hm, ha, hmod, hd, hg⟩ := decode_ok_operands h
  have hregs := regsReachable_of_decode hm h
  rw [Instr.wf_iff]
  rw [hg] at hover hregs ⊢
  exact ⟨hm, hover, hregs, segReachable_operandsAt mode cfg l a v1 v2 m sib d, sizeReachable_of_addrSize hm ha,
    Gather.exists_dispBytes (fitsDisp_operandsAt hmod hd) (fitsLength_operandsAt cfg v1 v2 m sib d hs ha)⟩

end Sys2Proof
end

section
/-! SUPPORT. What a step does at encodings (30_encoding R83, R84, R86, R103 to R107, R109): #UD, a refusal, or the
instruction's meaning; overlapping registers (R102), the outcomes of an execution (R240), the words of 95_test_vectors. -/

namespace Sys2Proof.Machine

/-! ## One step, by what the decoder answers -/

/-- What the decoder rejects is refused. -/
theorem step_refused_of_reject {s : State} {bytes : List Byte} (he : s.exc = none) (hf : s.fetch = .ok bytes)
    (hd : ∃ r, s.decodeAt bytes = .reject r) : ∃ r, step s = .refused r := by
  obtain ⟨r, hd⟩ := hd
  cases r <;> exact ⟨_, by simp only [step, he, hf, hd]; rfl⟩

/-- Settles O8, by the step's definition. -/
theorem stepRunsTheDecodedInstruction : Obligations.StepRunsTheDecodedInstruction := by
  intro s bytes i he hf hd
  simp [step, he, hf, hd]

/-- Settles O7: in a 16-bit code segment everything is refused; elsewhere the decoder rejects in its first loop, at the
escape, or at the fixed bits. -/
theorem neighbouringEncodingsAreRefused : Obligations.NeighbouringEncodingsAreRefused := by
  intro s legacy he hleg
  by_cases hm : s.mode = .code16
  · have refused := step_refused_of_code16 hm he
    exact ⟨fun _ _ _ _ _ _ _ _ => refused, fun _ _ _ _ => refused, fun _ _ _ _ _ _ => refused⟩
  refine ⟨fun prior rest v1 v2 op hprior hf h => ?_, fun b rest hf h => ?_, fun prior b rest hf hb h => ?_⟩
  · obtain ⟨l, hdec⟩ := decode_of_prior hm hleg (hprior.imp_left fun hnil => ⟨hnil, vexEscape_not_legacy s.mode⟩)
      s.env.enabled s.cfg.vvvv3 (v1 :: v2 :: op :: rest)
    obtain ⟨r, hr⟩ := decodeVex_of_neighbour h s.env.enabled s.cfg.vvvv3 l (!prior.isEmpty) rest
    exact step_refused_of_reject he hf ⟨r, hdec.trans hr⟩
  · exact step_refused_of_reject he hf (decode_of_repeated hm hleg h _ _ rest)
  · obtain ⟨l, hdec⟩ := decode_of_prior hm hleg h s.env.enabled s.cfg.vvvv3 rest
    exact step_refused_of_reject he hf ⟨_, hdec.trans (decodeVex_of_ne hb _ _ _ _ _ _)⟩

/-- Settles O14: past the opcode the encoding is #UD already, or the operands are read and the ModRM byte decides. -/
theorem operandWithoutSibIsUd : Obligations.OperandWithoutSibIsUd := by
  intro s legacy v1 v2 op m rest he hleg hf hhead h
  have hm := Mode.ne_code16_of_executes (executes_of_headOk hhead)
  obtain ⟨l, hdec, -⟩ := decode_of_admitted hm hleg s.env.enabled s.cfg.vvvv3 (v1 :: v2 :: op :: m :: rest)
  refine step_of_decode_ud he hf (hdec.trans ?_)
  rw [decodeVex_of_headOk hhead]
  split
  · rfl
  · cases addrSize s.mode l.has67 with
    | none => rfl
    | some a => exact decodeOperands_of_not_sib h _ _ _ _ _ _ _ _

/-- R105: the legacy bytes that make the address size 16 bits are admitted ones that hold 67H. -/
theorem admittedLegacy_addressSize {legacy : List Byte} (h : legacy = [0x67#8]
    ∨ ∃ b, (segOfByte b).isSome = true ∧ (legacy = [b, 0x67#8] ∨ legacy = [0x67#8, b])) :
    admittedLegacy legacy = true ∧ legacy.contains 0x67#8 = true := by
  rcases h with rfl | ⟨b, hb, rfl | rfl⟩
  · decide
  · simp [admittedLegacy, hb]
  · simp [admittedLegacy, hb]

/-- Settles O15: 67H among the legacy bytes leaves `Mode32` no address size. -/
theorem sixteenBitAddressSizeIsUd : Obligations.SixteenBitAddressSizeIsUd := by
  intro s legacy v1 v2 op rest he h32 hlegacy hf hhead
  obtain ⟨hleg, h67⟩ := admittedLegacy_addressSize hlegacy
  obtain ⟨l, hdec, -, hl⟩ := decode_of_admitted (mode := s.mode) (by simp [h32]) hleg s.env.enabled s.cfg.vvvv3
    (v1 :: v2 :: op :: rest)
  refine step_of_decode_ud he hf (hdec.trans ?_)
  rw [h32, decodeVex_of_headOk hhead, hl, h67]
  split <;> rfl

/-- Settles O16: the forbidden byte is tested once the opcode is recognised. -/
theorem forbiddenLegacyByteIsUd : Obligations.ForbiddenLegacyByteIsUd := by
  intro s legacy b v1 v2 op rest he hleg hb hf hhead
  have hm := Mode.ne_code16_of_executes (executes_of_headOk hhead)
  obtain ⟨l, hdec⟩ := decode_of_prior hm hleg (.inr ⟨b, rfl, hb⟩) s.env.enabled s.cfg.vvvv3 (v1 :: v2 :: op :: rest)
  rw [List.append_assoc] at hdec
  refine step_of_decode_ud he hf (hdec.trans ?_)
  rw [decodeVex_of_headOk hhead]
  rfl

/-! ## One execution -/

/-- Settles O13: overlapping registers are one of the causes of #UD. -/
theorem overlappingRegistersAreUd : Obligations.OverlappingRegistersAreUd := fun i s hm h =>
  exec_of_udCause hm (by simp [udCause, Gather.overlaps_iff.2 h])

/-- Settles O38: the six things an execution can do. -/
theorem executionAlwaysHasAnOutcome : Obligations.ExecutionAlwaysHasAnOutcome := by
  intro i s
  rw [exec_eq_gather]
  rcases gather_cases i.form i.gather s with
    ⟨hm, hg⟩ | ⟨-, -, hg⟩ | ⟨-, -, -, hg⟩ | ⟨hr, -, hg⟩ | ⟨-, -, k, e, -, hg⟩ | ⟨-, -, -, hg⟩
  · exact .inr (.inl ⟨hg, hm⟩)
  · exact .inl ⟨_, hg⟩
  · exact .inl ⟨_, hg⟩
  · exact .inr (.inr ⟨hg, hr⟩)
  · exact .inl ⟨_, hg⟩
  · exact .inl ⟨_, hg⟩

/-! ## The worked encodings (95_test_vectors) -/

/-- Settles O6: the decoder run on each word. -/
theorem workedEncodingsDecode : Obligations.WorkedEncodingsDecode :=
  ⟨by decide, by decide, by decide, by decide, by decide, by decide⟩

end Sys2Proof.Machine
end

section
/-! SUPPORT. The state at completion (40_gather_common R131 to R135; 20_memory R75): merged destination, zero mask, one
formula, and the second execution, which finds the mask consumed. -/

namespace Sys2Proof.Machine

/-- Settles O24: destination elements, width and tail at completion. -/
theorem completionMergesAndZeroesTheTail : Obligations.CompletionMergesAndZeroesTheTail := by
  intro i s hr hl
  have hx := exec_of_loadable hr hl
  obtain ⟨-, -, hover⟩ := hr
  refine ⟨_, hx, fun j hj => elem32_complete_dest s hover hj, ?_, complete_dest_tail s hover⟩
  rw [complete_vreg_dest s hover, ofElems_width]

/-- Settles O25: the mask at completion is the zero register of `CFG.VLMAX` bits. -/
theorem completionZeroesTheMask : Obligations.CompletionZeroesTheMask := fun _ s hr hl =>
  ⟨_, exec_of_loadable hr hl, complete_vreg_mask _ _ s⟩

/-- A value of `CFG.VLMAX` bits is written as it is (R26). -/
theorem State.setVreg_eq {s : State} (i : Fin 16) {val : VReg} (h : val.width = s.cfg.vlmax) :
    s.setVreg i val = { s with v := s.v.set i.val val } := by
  rw [State.setVreg, ← h, VReg.fit_self]

/-- R131 to R134 as one record update. -/
theorem complete_eq (f : Form) (g : Gather) (s : State) :
    complete f g s =
      { s with
        v := (s.v.set g.dest.val (ofElems s.cfg.vlmax (destAtCompletion f g s))).set g.mask.val (VReg.zero s.cfg.vlmax)
        pc := s.nextPc g.len
        rf := false
        reads := s.reads ++ [readBatch f g s fun _ => true] } := by
  rw [complete, State.setVreg_eq (s := s) _ rfl, State.setVreg_eq _ rfl]
  rfl

/-- The events of a batch at completion are those of the loaded elements, which lie below `n` (R75). -/
theorem mem_readBatch_complete {f : Form} {g : Gather} {s : State} {ev : ReadEvent} :
    ev ∈ readBatch f g s (fun _ => true) ↔ elemLoad f g s ev.elem = .ok ev.val ev.phys := by
  refine mem_readBatch.trans ⟨fun ⟨_, _, h⟩ => h, fun h => ⟨?_, rfl, h⟩⟩
  exact (active_iff.1 (active_of_isOk (congrArg Load.isOk h))).1

/-- Settles O26: the destination is that of `destAtCompletion`, the batch that of every loaded element. -/
theorem completionInOneFormula : Obligations.CompletionInOneFormula := by
  intro i s hr hl
  refine ⟨ofElems s.cfg.vlmax (destAtCompletion i.form i.gather s), readBatch i.form i.gather s fun _ => true, rfl,
    fun j hj => elem32_ofElems _ hj, fun ev => mem_readBatch_complete, ?_⟩
  rw [exec_of_loadable hr hl, complete_eq]
  rfl

/-! ## The mask consumed (R135, R234) -/

/-- A zero mask selects no element (R124). -/
theorem active_of_mask_zero {f : Form} {g : Gather} {s : State} {w : Nat} (h : s.vreg g.mask = VReg.zero w) (j : Nat) :
    active f g s j = false := by
  simp [active, h, maskBit_zero]

/-- With the mask consumed, completing once more keeps the destination. -/
theorem complete_complete_dest {f : Form} {g : Gather} (s : State) (h : g.overlaps = false) :
    (complete f g (complete f g s)).vreg g.dest = (complete f g s).vreg g.dest := by
  have hdest := complete_vreg_dest (f := f) s h
  rw [complete_vreg_dest _ h, complete_cfg, hdest]
  refine congrArg _ (funext fun j => ?_)
  by_cases hj : j < f.n
  · rw [destAtCompletion, if_pos hj, active_of_mask_zero (complete_vreg_mask f g s), hdest]
    exact elem32_ofElems _ (hj.trans_le (Form.n_le_vlmax f _))
  · rw [destAtCompletion, if_neg hj, destAtCompletion, if_neg hj]

/-- Settles O29: the first execution leaves a zero mask, so the second has no active element. -/
theorem secondGatherLoadsNothing : Obligations.SecondGatherLoadsNothing := by
  intro i s hr hl
  have hinactive := active_of_mask_zero (f := i.form) (complete_vreg_mask i.form i.gather s)
  have hx := exec_of_loadable hr hl
  have hx' := exec_of_loadable (s := complete i.form i.gather s) hr fun j _ ha => absurd ha (by simp [hinactive j])
  obtain ⟨-, -, hover⟩ := hr
  refine ⟨_, _, hx, hx', complete_complete_dest s hover, complete_vreg_mask _ _ _, ?_, rfl⟩
  rw [complete_reads, readBatch_of_inactive hinactive]

end Sys2Proof.Machine
end

section
/-! SUPPORT. Effective addresses (40_gather_common R122, R125 to R127): the exact integer sum modulo the address size. -/

namespace Sys2Proof.Machine

/-! ## Arithmetic modulo the address size (R11, R126) -/

/-- The number of effective addresses of an address size (R100). -/
def addrSpace : AddrSize → Int
  | .a32 => 2 ^ 32
  | .a64 => 2 ^ 64

section
variable (a : AddrSize) (x y : Qword)

/-- `trunc_A` is the remainder at the address size (R11). -/
theorem truncA_toNat : ((truncA a x).toNat : Int) = (x.toNat : Int) % addrSpace a := by
  cases a with
  | a64 =>
    have hlt : (x.toNat : Int) < 2 ^ 64 := by exact_mod_cast x.isLt
    exact (Int.emod_eq_of_lt (Int.natCast_nonneg _) hlt).symm
  | a32 =>
    simp only [truncA, addrSpace, BitVec.toNat_setWidth]
    omega

theorem truncA_toNat_modEq : ((truncA a x).toNat : Int) ≡ x.toNat [ZMOD addrSpace a] := by
  rw [truncA_toNat]
  exact Int.mod_modEq _ _

/-- What holds modulo 2^64 holds modulo the address size. -/
theorem modEq_addrSpace {m n : Int} (h : m ≡ n [ZMOD 2 ^ 64]) : m ≡ n [ZMOD addrSpace a] :=
  h.of_dvd (by cases a <;> decide)

theorem toNat_add_modEq : ((x + y).toNat : Int) ≡ x.toNat + y.toNat [ZMOD addrSpace a] := by
  refine modEq_addrSpace a ?_
  rw [BitVec.toNat_add]
  push_cast
  exact Int.mod_modEq _ _

theorem toNat_mul_modEq : ((x * y).toNat : Int) ≡ x.toNat * y.toNat [ZMOD addrSpace a] := by
  refine modEq_addrSpace a ?_
  rw [BitVec.toNat_mul]
  push_cast
  exact Int.mod_modEq _ _

/-- The signed reading differs from the unsigned one by a multiple of 2^64. -/
theorem toNat_modEq_toInt : (x.toNat : Int) ≡ x.toInt [ZMOD addrSpace a] := by
  refine modEq_addrSpace a ?_
  rw [BitVec.toInt_eq_toNat_bmod]
  exact Int.bmod_emod.symm

end

/-! ## The parts of the sum (R91, R122, R125) -/

theorem scaleValue_toNat (sc : Scale) :
    ((scaleValue sc).toNat : Int) = match sc with
      | .x1 => 1
      | .x2 => 2
      | .x4 => 4
      | .x8 => 8 := by
  cases sc <;> rfl

theorem baseValue_toNat_modEq (g : Gather) (s : State) :
    ((baseValue g s).toNat : Int)
      ≡ (match g.base with
          | some b => ((s.xreg b).toNat : Int)
          | none => 0) [ZMOD addrSpace g.asize] := by
  unfold baseValue
  cases g.base with
  | some b => exact truncA_toNat_modEq g.asize (s.xreg b)
  | none => rfl

/-- R125: sign extension keeps the signed dword. -/
theorem indexElem_toInt (f : Form) (i0 : VReg) (j : Nat) :
    (indexElem f i0 j).toInt = match f with
      | .dps128 => (elem32 i0 j).toInt
      | .dps256 => (elem32 i0 j).toInt
      | .qps128 => (elem64 i0 j).toInt
      | .qps256 => (elem64 i0 j).toInt := by
  cases f with
  | dps128 | dps256 => exact BitVec.toInt_signExtend_of_le (by decide)
  | qps128 | qps256 => rfl

/-- R126: the effective address is, modulo the address size, the sum of its parts. -/
theorem effAddr_toNat_modEq (f : Form) (g : Gather) (s : State) (j : Nat) :
    ((effAddr f g s j).toNat : Int)
      ≡ (baseValue g s).toNat + (indexElem f (s.vreg g.index) j).toInt * (scaleValue g.scale).toNat + g.disp.toInt
        [ZMOD addrSpace g.asize] := by
  unfold effAddr
  generalize baseValue g s = b, indexElem f (s.vreg g.index) j = x, scaleValue g.scale = c, g.disp = d
  have hprod : ((x * c).toNat : Int) ≡ x.toInt * c.toNat [ZMOD addrSpace g.asize] :=
    (toNat_mul_modEq _ x c).trans ((toNat_modEq_toInt _ x).mul_right _)
  calc ((truncA g.asize (b + x * c + d)).toNat : Int)
      ≡ (b + x * c + d).toNat [ZMOD addrSpace g.asize] := truncA_toNat_modEq _ _
    _ ≡ (b + x * c).toNat + d.toNat [ZMOD addrSpace g.asize] := toNat_add_modEq _ _ _
    _ ≡ (b.toNat + (x * c).toNat) + d.toInt [ZMOD addrSpace g.asize] :=
      (toNat_add_modEq _ _ _).add (toNat_modEq_toInt _ d)
    _ ≡ b.toNat + x.toInt * c.toNat + d.toInt [ZMOD addrSpace g.asize] := (hprod.add_left _).add_right _

/-- Settles O30: the sum of `effAddr_toNat_modEq`, part by part; the effective address is its own remainder. -/
theorem effectiveAddressIsTheSumModuloTheAddressSize : Obligations.EffectiveAddressIsTheSumModuloTheAddressSize := by
  intro f g s j
  have hself : ((effAddr f g s j).toNat : Int) % addrSpace g.asize = (effAddr f g s j).toNat := by
    rw [effAddr, truncA_toNat, Int.emod_emod_of_dvd _ dvd_rfl]
  have hsum := (effAddr_toNat_modEq f g s j).trans (((baseValue_toNat_modEq g s).add_right _).add_right _)
  rw [scaleValue_toNat, indexElem_toInt] at hsum
  exact hself.symm.trans hsum

/-! ## The upper half of a qword index (R127) -/

/-- At a 32-bit address size the effective address depends on the low 32 bits of the index alone. -/
theorem effAddr_congr_of_a32 {f : Form} {g : Gather} {s s' : State} {j : Nat} (ha : g.asize = .a32) (hx : s.x = s'.x)
    (hi : (indexElem f (s.vreg g.index) j).setWidth 32 = (indexElem f (s'.vreg g.index) j).setWidth 32) :
    effAddr f g s j = effAddr f g s' j := by
  have hb : baseValue g s = baseValue g s' := by
    unfold baseValue State.xreg
    rw [hx]
  simp only [effAddr, ha, truncA, hb, BitVec.setWidth_add, BitVec.setWidth_mul, hi, Nat.reduceLeDiff]

/-- Settles O31: the qword of the index register written is the one read. -/
theorem qwordIndexUpperHalfIsIgnored : Obligations.QwordIndexUpperHalfIsIgnored := by
  intro f g s r r' j hf ha h
  refine effAddr_congr_of_a32 ha rfl ?_
  rcases hf with rfl | rfl <;> simpa [indexElem, State.vreg, Form.iw] using h

end Sys2Proof.Machine
end

section
/-! SUPPORT. The fault exit (40_gather_common R136 to R144; 60_exceptions R180, R184 to R186, R197, R199): what is delivered,
the destination, the mask and their tails, the rest of the state, and its repeatability (R140). -/

namespace Sys2Proof.Machine

/-! ## The fault delivered (R137, R180) -/

/-- R58: a failed check is #SS(0) or #GP(0), never a page fault. -/
theorem lin_ne_pf (s : State) (seg : Seg) (ea : Qword) (faults : List (Qword × Dword)) :
    lin s seg ea ≠ .error (.pf faults) := by
  have hexc : segExc seg ≠ .pf faults := by
    rw [segExc_eq]
    split <;> simp
  unfold lin
  split <;> dsimp only <;> split <;> simp [hexc]

/-- R60: the page fault of an element lists a faulting byte. -/
theorem faults_ne_nil_of_elemLoad {f : Form} {g : Gather} {s : State} {j : Nat} {faults : List (Qword × Dword)}
    (h : elemLoad f g s j = .exc (.pf faults)) : faults ≠ [] := by
  cases ha : active f g s j with
  | false => cases (elemLoad_of_inactive ha).symm.trans h
  | true =>
    rw [elemLoad_of_active ha] at h
    cases hlin : lin s g.seg (effAddr f g s j) with
    | error e =>
      simp only [hlin, Load.exc.injEq] at h
      exact absurd (h ▸ hlin) (lin_ne_pf _ _ _ _)
    | ok la =>
      simp only [hlin] at h
      obtain ⟨hne, he⟩ := State.memRead_eq_exc_iff.1 h
      cases he
      exact hne

/-- Settles O39: the element is `faulting`'s, and each kind of exception has its own record. -/
theorem rightmostFaultIsDelivered : Obligations.RightmostFaultIsDelivered := by
  intro i s ef e hr hd hp hef hload hleast
  have hx := exec_of_fault hr hd (faulting_iff.2 ⟨hef, hload, hleast⟩) hp
  cases e with
  | gp0 => exact ⟨_, _, hx, rfl, rfl, rfl, rfl, rfl⟩
  | ss0 => exact ⟨_, _, hx, rfl, rfl, rfl, rfl, rfl⟩
  | pf faults => exact ⟨_, _, hx, rfl, rfl, rfl, _, pickFault_mem _ (faults_ne_nil_of_elemLoad hload), rfl⟩

/-! ## The elements a fault exit leaves (R138 to R143) -/

/-- A ready gather with a faulting element takes the fault exit there. -/
theorem exec_of_faulting {i : Instr} {s : State} {ef : Nat} {e : ElemExc} (hr : s.ready i.gather)
    (hd : s.noDevice i.form i.gather) (hf : faulting i.form i.gather s = some (ef, e)) :
    exec i s = .next (faultExit i.form i.gather s ef e) := by
  rw [exec_eq_gather, gather_of_ready hr hd, hf]

theorem Form.n_le_k (f : Form) : f.n ≤ f.k := by cases f <;> decide

/-- The most significant bit of a normalised element is the mask bit (R123). -/
theorem normElem_getLsbD (f : Form) (k0 : VReg) (j : Nat) :
    (normElem f k0 j).getLsbD 31 = (decide (j < f.k) && maskBit k0 j) := by
  unfold normElem
  cases decide (j < f.k) && maskBit k0 j <;> decide

section
variable {f : Form} {g : Gather} {s : State} {ef j : Nat} (e : ElemExc)

theorem elem32_faultExit_dest (h : g.overlaps = false) (hj : j < s.cfg.vlmax / 32) :
    elem32 ((faultExit f g s ef e).vreg g.dest) j = destAtFault (drawsOf f g s) f g s ef j := by
  rw [faultExit, faultExitWith_vreg, partialUpdate_vreg_dest _ _ _ _ h, elem32_ofElems _ hj]

theorem elem32_faultExit_mask (hj : j < s.cfg.vlmax / 32) :
    elem32 ((faultExit f g s ef e).vreg g.mask) j = maskAtFault (drawsOf f g s) f g s ef j := by
  rw [faultExit, faultExitWith_vreg, partialUpdate_vreg_mask, elem32_ofElems _ hj]

/-- R141: the low elements of the destination, by the completed set. -/
theorem elem32_faultExit_dest_of_lt (h : g.overlaps = false) (hj : j < f.n) :
    elem32 ((faultExit f g s ef e).vreg g.dest) j
      = if gathered f g s ef j = true then (elemLoad f g s j).value else elem32 (s.vreg g.dest) j := by
  rw [elem32_faultExit_dest e h (hj.trans_le (Form.n_le_vlmax f _)), destAtFault, if_pos hj]
  rfl

/-- R142: the mask element of a completed element. -/
theorem elem32_faultExit_mask_of_gathered (hj : j < f.n) (hg : gathered f g s ef j = true) :
    elem32 ((faultExit f g s ef e).vreg g.mask) j = 0#32 := by
  rw [elem32_faultExit_mask e (hj.trans_le (Form.n_le_vlmax f _)), maskAtFault, if_pos hj]
  exact if_pos hg

/-- R142: the mask element of an element not completed. -/
theorem elem32_faultExit_mask_of_not_gathered (hj : j < f.n) (hg : gathered f g s ef j = false) :
    elem32 ((faultExit f g s ef e).vreg g.mask) j = normElem f (s.vreg g.mask) j
      ∨ (s.cfg.maskNorm = .any ∧ elem32 ((faultExit f g s ef e).vreg g.mask) j = elem32 (s.vreg g.mask) j) := by
  have hc : ¬ completed (drawsOf f g s) f g s ef j = true := Bool.eq_false_iff.1 hg
  rw [elem32_faultExit_mask e (hj.trans_le (Form.n_le_vlmax f _)), maskAtFault, if_pos hj, if_neg hc]
  split
  case isTrue hkeep => exact .inr ⟨hkeep.1, rfl⟩
  case isFalse => exact .inl rfl

/-- R142: the mask bit says active and not completed. -/
theorem maskBit_faultExit (hj : j < f.n) :
    maskBit ((faultExit f g s ef e).vreg g.mask) j = (active f g s j && !gathered f g s ef j) := by
  have hactive : active f g s j = maskBit (s.vreg g.mask) j := by simp [active, hj]
  rw [maskBit_eq_elem]
  cases hg : gathered f g s ef j with
  | true => simp [elem32_faultExit_mask_of_gathered e hj hg]
  | false =>
    rw [hactive, Bool.not_false, Bool.and_true]
    rcases elem32_faultExit_mask_of_not_gathered e hj hg with h | ⟨-, h⟩
    · rw [h, normElem_getLsbD, decide_eq_true (hj.trans_le (Form.n_le_k f)), Bool.true_and]
    · rw [h, maskBit_eq_elem]

end

/-- The faulting element is not completed (R139). -/
theorem gathered_faulting {f : Form} {g : Gather} {s : State} {ef : Nat} {e : ElemExc}
    (h : elemLoad f g s ef = .exc e) : gathered f g s ef ef = false := by
  simp [gathered, h, Load.isOk]

/-- The faulting element is active. -/
theorem active_faulting {f : Form} {g : Gather} {s : State} {ef : Nat} {e : ElemExc}
    (h : elemLoad f g s ef = .exc e) : active f g s ef = true := by
  by_contra hn
  cases (elemLoad_of_inactive (Bool.eq_false_iff.2 hn)).symm.trans h

/-- Settles O41: below the faulting element every active element is loaded, so completed; the faulting one is not. -/
theorem elementsRightOfTheFaultAreCompleted : Obligations.ElementsRightOfTheFaultAreCompleted := by
  intro i s ef e hr hd hf
  obtain ⟨hef, hload, hleast⟩ := faulting_iff.1 hf
  have hx := exec_of_faulting hr hd hf
  obtain ⟨-, -, hover⟩ := hr
  have hgf := gathered_faulting hload
  refine ⟨_, hx, fun j hj ha => ?_, ?_, ?_⟩
  · have hjn := hj.trans hef
    have hok := isOk_of_active hd ha (hleast j hj)
    have hg : gathered i.form i.gather s ef j = true := by simp [gathered, hok, hj]
    refine ⟨hok, ?_, elem32_faultExit_mask_of_gathered e hjn hg⟩
    rw [elem32_faultExit_dest_of_lt e hover hjn, if_pos hg]
  · rw [elem32_faultExit_dest_of_lt e hover hef, hgf]
    rfl
  · refine (maskBit_faultExit e hef).trans ?_
    rw [active_faulting hload, hgf]
    rfl

/-- Settles O42: R141, element by element. -/
theorem faultExitDestination : Obligations.FaultExitDestination := by
  intro i s ef e hr hd hf
  have hx := exec_of_faulting hr hd hf
  obtain ⟨-, -, hover⟩ := hr
  exact ⟨_, hx, fun j hj => elem32_faultExit_dest_of_lt e hover hj⟩

/-- Settles O43: R142, element by element. -/
theorem faultExitMask : Obligations.FaultExitMask := fun _ _ _ e hr hd hf =>
  ⟨_, exec_of_faulting hr hd hf, fun _ hj => ⟨elem32_faultExit_mask_of_gathered e hj,
    elem32_faultExit_mask_of_not_gathered e hj, maskBit_faultExit e hj⟩⟩

/-- R143: the destination's tail is zero or old, by one draw. -/
theorem destAtFault_tail (d : Draws) (f : Form) (g : Gather) (s : State) (ef : Nat) :
    (∀ j, f.n ≤ j → destAtFault d f g s ef j = 0#32)
      ∨ ∀ j, f.n ≤ j → destAtFault d f g s ef j = elem32 (s.vreg g.dest) j := by
  unfold destAtFault
  cases d.zeroDest with
  | true => exact .inl fun j hj => if_neg hj.not_gt
  | false => exact .inr fun j hj => if_neg hj.not_gt

/-- R143: the mask's tail is zero by one draw, or what the pseudocode leaves or, under `any`, the old element. -/
theorem maskAtFault_tail (d : Draws) (f : Form) (g : Gather) (s : State) (ef : Nat) :
    (∀ j, f.n ≤ j → maskAtFault d f g s ef j = 0#32)
      ∨ ∀ j, f.n ≤ j → maskAtFault d f g s ef j = tailAtFault f (s.vreg g.mask) j
          ∨ (s.cfg.maskNorm = .any ∧ maskAtFault d f g s ef j = elem32 (s.vreg g.mask) j) := by
  unfold maskAtFault
  cases d.zeroMask with
  | true => exact .inl fun j hj => if_neg hj.not_gt
  | false =>
    refine .inr fun j hj => ?_
    simp only [if_neg hj.not_gt, Bool.false_eq_true, if_false]
    split
    case isTrue hkeep => exact .inr ⟨hkeep.1, rfl⟩
    case isFalse => exact .inl rfl

/-- Settles O44: the tails by the draws. -/
theorem faultExitTails : Obligations.FaultExitTails := by
  intro i s ef e hr hd hf
  have hx := exec_of_faulting hr hd hf
  obtain ⟨-, -, hover⟩ := hr
  refine ⟨_, hx, ?_, ?_⟩
  · refine (destAtFault_tail (drawsOf i.form i.gather s) i.form i.gather s ef).imp ?_ ?_ <;>
      exact fun h j hn hj => (elem32_faultExit_dest e hover hj).trans (h j hn)
  · refine (maskAtFault_tail (drawsOf i.form i.gather s) i.form i.gather s ef).imp ?_ ?_
    · exact fun h j hn hj => (elem32_faultExit_mask e hj).trans (h j hn)
    · intro h j hn hj
      rw [elem32_faultExit_mask e hj]
      exact h j hn

/-! ## The rest of the state (R144, R186, R197) -/

section
variable (f : Form) (g : Gather) (s : State) (ef : Nat) (e : ElemExc)

theorem faultExit_eq :
    faultExit f g s ef e =
      { s with
        v := (faultExit f g s ef e).v
        cr2 := (faultExit f g s ef e).cr2
        exc := (faultExit f g s ef e).exc
        reads := (faultExit f g s ef e).reads
        draws := (faultExit f g s ef e).draws } := by
  unfold faultExit
  rcases faultExitWith_eq (drawsOf f g s) f g s ef e with ⟨_, _, _, h⟩ | ⟨_, _, h⟩ <;> rw [h] <;> rfl

theorem faultExit_vreg_other {k : Fin 16} (hd : k ≠ g.dest) (hm : k ≠ g.mask) :
    (faultExit f g s ef e).vreg k = s.vreg k := by
  rw [faultExit, faultExitWith_vreg, partialUpdate_vreg_other _ _ _ _ hd hm]

/-- R186: `cr2` is written only with a page fault, the exception of the element. -/
theorem faultExit_cr2 : (faultExit f g s ef e).cr2 = s.cr2
    ∨ (∃ faults, e = .pf faults) ∧ ∃ r, (faultExit f g s ef e).exc = some r ∧ r.vec = 14 ∧ r.kind = .fault := by
  unfold faultExit faultExitWith
  split
  · exact .inl rfl
  · cases e with
    | gp0 => exact .inl rfl
    | ss0 => exact .inl rfl
    | pf faults => exact .inr ⟨⟨faults, rfl⟩, _, rfl, rfl, rfl⟩

/-- R197: an exception is delivered, and its saved `pc` is the gather's. -/
theorem faultExit_exc : ∃ r, (faultExit f g s ef e).exc = some r ∧ r.savedPc = s.pc := by
  unfold faultExit
  rcases faultExitWith_eq (drawsOf f g s) f g s ef e with ⟨_, _, _, h⟩ | ⟨_, _, h⟩
  · exact ⟨_, by rw [h]; rfl, rfl⟩
  · exact ⟨_, by rw [h]; rfl, rfl⟩

end

/-- Settles O45: the fault exit in one formula, with its registers, `cr2` and record. -/
theorem faultExitLeavesTheRest : Obligations.FaultExitLeavesTheRest := fun _ s ef e hr hd hf =>
  ⟨_, exec_of_faulting hr hd hf, faultExit_eq _ _ s ef e, fun _ => faultExit_vreg_other _ _ s ef e,
    (faultExit_cr2 _ _ s ef e).imp_right And.left, faultExit_exc _ _ s ef e⟩

/-! ## Repeatability (R140) -/

/-- R126: an effective address depends on the base and the index register. -/
theorem effAddr_congr {f : Form} {g : Gather} {s s' : State} (hx : s.x = s'.x)
    (hi : s.vreg g.index = s'.vreg g.index) : effAddr f g s = effAddr f g s' := by
  funext j
  simp only [effAddr, hi, baseValue, State.xreg, hx]

section
variable {s s' : State} (h : s.architectural = s'.architectural)
include h

theorem State.env_of_architectural : s.env = s'.env := congrArg ArchState.env h

theorem State.mode_of_architectural : s.mode = s'.mode := congrArg Env.mode (State.env_of_architectural h)

theorem State.vreg_of_architectural : s.vreg = s'.vreg := by
  have hv : s.v = s'.v := congrArg ArchState.v h
  funext k
  simp only [State.vreg, hv]

theorem State.translate_of_architectural : s.translate = s'.translate := by
  funext la
  rw [← s.translate_architectural la 0, h, s'.translate_architectural]

theorem State.byteAddrs_of_architectural : s.byteAddrs = s'.byteAddrs := by
  funext la
  rw [State.byteAddrs, State.byteAddrs, State.mode_of_architectural h]

theorem State.isIo_of_architectural : s.isIo = s'.isIo := by
  have hio : s.io = s'.io := congrArg ArchState.io h
  funext pa
  rw [State.isIo, State.isIo, hio]

theorem State.memRead_of_architectural : s.memRead = s'.memRead := by
  have hmem : s.mem = s'.mem := congrArg ArchState.mem h
  unfold State.memRead State.pageFaults State.physAddrs
  rw [State.byteAddrs_of_architectural h, State.translate_of_architectural h, State.isIo_of_architectural h, hmem]

theorem lin_of_architectural : lin s = lin s' := by
  have hsegs : s.segs = s'.segs := congrArg ArchState.segs h
  have hcfg : s.cfg = s'.cfg := congrArg ArchState.cfg h
  funext seg ea
  unfold lin segBase64 State.segment
  rw [State.mode_of_architectural h, hsegs, hcfg]

/-- R140: the outcomes of the elements are a function of the architectural state. -/
theorem elemLoad_of_architectural (f : Form) (g : Gather) : elemLoad f g s = elemLoad f g s' := by
  have hv := State.vreg_of_architectural h
  have hea : effAddr f g s = effAddr f g s' := effAddr_congr (congrArg ArchState.x h) (congrFun hv _)
  unfold elemLoad active
  rw [hv, hea, lin_of_architectural h, State.memRead_of_architectural h]

theorem gathered_of_architectural (f : Form) (g : Gather) : gathered f g s = gathered f g s' := by
  unfold gathered
  rw [elemLoad_of_architectural h, h]

theorem State.ready_of_architectural {g : Gather} (hr : s.ready g) : s'.ready g := by
  obtain ⟨hexec, hlaunch, hover⟩ := hr
  rw [State.enabledLaunch, State.env_of_architectural h] at hlaunch
  exact ⟨State.mode_of_architectural h ▸ hexec, hlaunch, hover⟩

end

/-- Settles O46: both executions take the fault exit at one element, with one set of completed elements. -/
theorem partialCompletionIsRepeatable : Obligations.PartialCompletionIsRepeatable := by
  intro i s s' t t' ef e h hr hd hf hx hx' j hj
  have hload := elemLoad_of_architectural h i.form i.gather
  have hv := State.vreg_of_architectural h
  have hgath := gathered_of_architectural h i.form i.gather
  have hd' : s'.noDevice i.form i.gather := (touchesDevice_congr hload).symm.trans hd
  cases (exec_of_faulting hr hd hf).symm.trans hx
  cases (exec_of_faulting (State.ready_of_architectural h hr) hd' ((faulting_congr hload).symm.trans hf)).symm.trans hx'
  obtain ⟨-, -, hover⟩ := hr
  constructor
  · rw [elem32_faultExit_dest_of_lt e hover hj, elem32_faultExit_dest_of_lt e hover hj, hload, hv, hgath]
  · refine (maskBit_faultExit e hj).trans (Eq.trans ?_ (maskBit_faultExit e hj).symm)
    rw [active, active, hv, hgath]

end Sys2Proof.Machine
end

section
/-! SUPPORT. Continuation of a fault exit (40_gather_common R145; 60_exceptions R202, R203): what a state on the way to the
uninterrupted result has kept of it, and how many fault exits complete an element. -/

namespace Sys2Proof.Machine

/-! ## On the way to the result of `w` -/

/-- R145: `s` continues the gather of `w`. An element is still to be gathered only if `w` gathers it, and every other one
already holds what `w` ends with. -/
structure Continues (f : Form) (g : Gather) (w s : State) : Prop where
  cfg : s.cfg = w.cfg
  active_of_active : ∀ j, active f g s j = true → active f g w j = true
  done : ∀ j, j < f.n → active f g s j = false → elem32 (s.vreg g.dest) j = destAtCompletion f g w j

section
variable {f : Form} {g : Gather} {w s : State}

/-- R131: an element that is loaded in `w` ends with the value loaded. -/
theorem destAtCompletion_of_ok {j : Nat} {val : Dword} {phys : List Qword} (h : elemLoad f g w j = .ok val phys) :
    destAtCompletion f g w j = val := by
  have ha : active f g w j = true := active_of_isOk (congrArg Load.isOk h)
  rw [destAtCompletion, if_pos (active_iff.1 ha).1, if_pos ha, h]
  rfl

/-- What is loaded on the way is what `w` ends with. -/
theorem loadsAgree.value {j : Nat} (h : loadsAgree f g s w) (hok : (elemLoad f g s j).isOk = true) :
    (elemLoad f g s j).value = destAtCompletion f g w j := by
  obtain ⟨val, phys, hload⟩ := Load.isOk_iff.1 hok
  obtain ⟨phys', hload'⟩ := h j val phys hload
  rw [hload, destAtCompletion_of_ok hload']
  rfl

/-- At the start the registers are those of `w`. -/
theorem Continues.of_sameOperands (h : sameOperands g w s) : Continues f g w s := by
  obtain ⟨hdest, -, hmask, hcfg⟩ := h
  have hactive : active f g s = active f g w := by
    unfold active
    rw [hmask]
  refine ⟨hcfg.symm, fun j ha => hactive ▸ ha, fun j hj ha => ?_⟩
  rw [destAtCompletion, if_pos hj, ← hactive, ha, hdest]
  rfl

section
variable {c : State} {ef : Nat} {e : ElemExc} (hsame : sameOperands g c (faultExit f g s ef e))
include hsame

/-- R138, R142: after a fault exit the elements that were active and not completed are active. -/
theorem active_of_sameOperands_faultExit (j : Nat) :
    active f g c j = (active f g s j && !gathered f g s ef j) := by
  obtain ⟨-, -, hmask, -⟩ := hsame
  by_cases hj : j < f.n
  · rw [active, hmask, maskBit_faultExit e hj, decide_eq_true hj, Bool.true_and]
  · simp [active, hj]

/-- A fault exit moves the loaded elements on to the result of `w` and keeps the others. -/
theorem Continues.faultExit (h : Continues f g w s) (hover : g.overlaps = false) (hloads : loadsAgree f g s w) :
    Continues f g w c := by
  have hactive := active_of_sameOperands_faultExit hsame
  obtain ⟨hdest, -, -, hcfg⟩ := hsame
  refine ⟨(hcfg.trans (faultExitWith_cfg _ _ _ _ _ _)).trans h.cfg, fun j ha => ?_, fun j hj ha => ?_⟩
  · rw [hactive, Bool.and_eq_true] at ha
    exact h.active_of_active j ha.1
  · rw [hdest, elem32_faultExit_dest_of_lt e hover hj]
    split
    case isTrue hg => exact hloads.value (isOk_of_gathered hg)
    case isFalse hg =>
      rw [hactive, Bool.eq_false_iff.2 hg, Bool.not_false, Bool.and_true] at ha
      exact h.done j hj ha

end

/-- Where every element still to be gathered loads, as `w` loads it, completion gives the destination of `w`. -/
theorem Continues.destAtCompletion_eq (h : Continues f g w s) (hl : s.loadable f g) (hloads : loadsAgree f g s w) :
    destAtCompletion f g s = destAtCompletion f g w := by
  funext j
  by_cases hj : j < f.n
  · cases ha : active f g s j with
    | true =>
      rw [← hloads.value (hl j hj ha), destAtCompletion, if_pos hj, if_pos ha]
    | false =>
      rw [← h.done j hj ha, destAtCompletion, if_pos hj, ha]
      rfl
  · rw [destAtCompletion, if_neg hj, destAtCompletion, if_neg hj]

end

/-! ## One continuation -/

/-- The state with other destination and mask registers. -/
def State.withOperands (g : Gather) (d m : VReg) (s : State) : State :=
  { s with v := (s.v.set g.dest.val d).set g.mask.val m }

section
variable {f : Form} {g : Gather} (h : g.overlaps = false) (d m : VReg) (s : State)
include h

/-- R102: the index register is neither destination nor mask. -/
theorem Gather.index_ne : g.index ≠ g.dest ∧ g.index ≠ g.mask := by
  simp only [Gather.overlaps, Bool.or_eq_false_iff, beq_eq_false_iff_ne] at h
  obtain ⟨⟨hdi, -⟩, him⟩ := h
  exact ⟨hdi.symm, him⟩

theorem State.withOperands_dest : (s.withOperands g d m).vreg g.dest = d := by
  have hne : g.mask.val ≠ g.dest.val := fun he => Gather.dest_ne_mask h (Fin.ext he.symm)
  simp [State.withOperands, State.vreg, Vector.getElem_set_ne _ _ hne]

omit h in
theorem State.withOperands_mask : (s.withOperands g d m).vreg g.mask = m := by
  simp [State.withOperands, State.vreg]

theorem State.withOperands_index : (s.withOperands g d m).vreg g.index = s.vreg g.index := by
  obtain ⟨hd, hm⟩ := Gather.index_ne h
  have hd' : g.dest.val ≠ g.index.val := fun he => hd (Fin.ext he.symm)
  have hm' : g.mask.val ≠ g.index.val := fun he => hm (Fin.ext he.symm)
  simp [State.withOperands, State.vreg, Vector.getElem_set_ne _ _ hd', Vector.getElem_set_ne _ _ hm']

/-- An element active under both masks has one outcome, whatever destination and mask hold. -/
theorem elemLoad_withOperands {j : Nat} (ha : active f g s j = true)
    (ha' : active f g (s.withOperands g d m) j = true) :
    elemLoad f g (s.withOperands g d m) j = elemLoad f g s j := by
  have hea : effAddr f g (s.withOperands g d m) = effAddr f g s :=
    effAddr_congr rfl (State.withOperands_index h d m s)
  rw [elemLoad_of_active ha, elemLoad_of_active ha', hea]
  rfl

/-- Completion overwrites destination and mask, so their old values enter through `destAtCompletion` and the history alone. -/
theorem complete_withOperands (hdest : destAtCompletion f g s = destAtCompletion f g (s.withOperands g d m)) :
    complete f g s = { complete f g (s.withOperands g d m) with reads := (complete f g s).reads } := by
  have hne : g.mask.val ≠ g.dest.val := fun he => Gather.dest_ne_mask h (Fin.ext he.symm)
  rw [complete_eq, complete_eq, ← hdest]
  simp only [State.withOperands, State.nextPc, State.mode]
  rw [Vector.set_comm _ _ hne, Vector.set_set, Vector.set_set]

end

/-- R145: where every active element of the uninterrupted gather loads, every element left loads, and loads the same. -/
theorem Continues.loadable_withOperands {f : Form} {g : Gather} {c : State} {d m : VReg} (hover : g.overlaps = false)
    (h : Continues f g (c.withOperands g d m) c) (hl : (c.withOperands g d m).loadable f g) :
    c.loadable f g ∧ loadsAgree f g c (c.withOperands g d m) := by
  have hload : ∀ j, active f g c j = true → elemLoad f g (c.withOperands g d m) j = elemLoad f g c j :=
    fun j ha => elemLoad_withOperands hover d m c ha (h.active_of_active j ha)
  refine ⟨fun j hj ha => hload j ha ▸ hl j hj (h.active_of_active j ha), fun j val phys hj => ⟨phys, ?_⟩⟩
  exact (hload j (active_of_isOk (congrArg Load.isOk hj))).trans hj

/-- Settles O50: `w` and the start hold the same operands, so the continued gather goes on to the result of `w`. -/
theorem continuationGivesTheUninterruptedResult : Obligations.ContinuationGivesTheUninterruptedResult := by
  intro i s t c w ef e hr hd hf hx hsame hrc hw hl hloads
  cases (exec_of_faulting hr hd hf).symm.trans hx
  obtain ⟨-, -, hover⟩ := hr
  replace hw : w = c.withOperands i.gather (s.vreg i.gather.dest) (s.vreg i.gather.mask) := hw
  subst hw
  have hstart : sameOperands i.gather (c.withOperands i.gather (s.vreg i.gather.dest) (s.vreg i.gather.mask)) s := by
    obtain ⟨-, hindex, -, hcfg⟩ := hsame
    obtain ⟨hid, him⟩ := Gather.index_ne hover
    exact ⟨State.withOperands_dest hover _ _ c,
      (State.withOperands_index hover _ _ c).trans (hindex.trans (faultExit_vreg_other _ _ s ef e hid him)),
      State.withOperands_mask _ _ c, hcfg.trans (faultExitWith_cfg _ _ _ _ _ _)⟩
  have hcont := (Continues.of_sameOperands hstart).faultExit hsame hover hloads
  obtain ⟨hlc, hagree⟩ := hcont.loadable_withOperands hover hl
  exact ⟨_, _, exec_of_loadable hrc hlc, exec_of_loadable hrc hl,
    complete_withOperands hover _ _ c (hcont.destAtCompletion_eq hlc hagree)⟩

/-! ## A chain of continuations -/

/-- One link of a chain: the environment's state after a fault exit of `s`, with the fault exit written out. -/
theorem continued_cons {i : Instr} {w s c : State} {rest : List State} (h : continued i w s (c :: rest)) :
    i.gather.overlaps = false ∧ loadsAgree i.form i.gather s w ∧ continued i w c rest
      ∧ ∃ ef e, faulting i.form i.gather s = some (ef, e)
        ∧ sameOperands i.gather c (faultExit i.form i.gather s ef e) := by
  obtain ⟨hr, hd, hloads, ⟨t, ef, e, hf, hx, hsame⟩, hrest⟩ := h
  cases (exec_of_faulting hr hd hf).symm.trans hx
  obtain ⟨-, -, hover⟩ := hr
  exact ⟨hover, hloads, hrest, ef, e, hf, hsame⟩

/-- The last state of a chain continues `w`, and every element left there loads, as in `w`. -/
theorem Continues.getLast {i : Instr} {w last : State} {rest : List State} :
    ∀ {s : State}, Continues i.form i.gather w s → continued i w s rest → (s :: rest).getLast? = some last →
      last.ready i.gather ∧ last.loadable i.form i.gather ∧ loadsAgree i.form i.gather last w
        ∧ Continues i.form i.gather w last := by
  induction rest with
  | nil =>
    intro s h hc hlast
    cases hlast
    obtain ⟨hr, hl, hloads⟩ := hc
    exact ⟨hr, hl, hloads, h⟩
  | cons c rest ih =>
    intro s h hc hlast
    obtain ⟨hover, hloads, hrest, ef, e, -, hsame⟩ := continued_cons hc
    rw [List.getLast?_cons_cons] at hlast
    exact ih (h.faultExit hsame hover hloads) hrest hlast

/-- The elements a gather has still to load. -/
def activeSet (f : Form) (g : Gather) (s : State) : Finset Nat := (Finset.range f.n).filter (active f g s ·)

theorem mem_activeSet {f : Form} {g : Gather} {s : State} {j : Nat} :
    j ∈ activeSet f g s ↔ active f g s j = true := by
  rw [activeSet, Finset.mem_filter, Finset.mem_range]
  exact and_iff_right_of_imp fun ha => (active_iff.1 ha).1

theorem progresses_iff {f : Form} {g : Gather} {s : State} {ef : Nat} {e : ElemExc} (h : faulting f g s = some (ef, e)) :
    progresses f g s = true ↔ ∃ j, j < f.n ∧ gathered f g s ef j = true := by
  simp [progresses, h, List.any_eq_true]

/-- A fault exit activates no element, and one that makes progress leaves fewer active. -/
theorem activeSet_faultExit {f : Form} {g : Gather} {s c : State} {ef : Nat} {e : ElemExc}
    (hf : faulting f g s = some (ef, e)) (hsame : sameOperands g c (faultExit f g s ef e)) :
    activeSet f g c ⊆ activeSet f g s ∧ (progresses f g s = true → activeSet f g c ⊂ activeSet f g s) := by
  have hactive := active_of_sameOperands_faultExit hsame
  have hsub : activeSet f g c ⊆ activeSet f g s := fun j hj => by
    rw [mem_activeSet, hactive, Bool.and_eq_true] at hj
    exact mem_activeSet.2 hj.1
  refine ⟨hsub, fun hp => Finset.ssubset_iff_of_subset hsub |>.2 ?_⟩
  obtain ⟨j, -, hg⟩ := (progresses_iff hf).1 hp
  refine ⟨j, mem_activeSet.2 (active_of_isOk (isOk_of_gathered hg)), fun hj => ?_⟩
  simp [mem_activeSet, hactive, hg] at hj

/-- A chain makes progress at most once for each element that is active at its start. -/
theorem countP_progresses_le {i : Instr} {w : State} {rest : List State} :
    ∀ {s : State}, continued i w s rest →
      (s :: rest).countP (progresses i.form i.gather) ≤ (activeSet i.form i.gather s).card := by
  induction rest with
  | nil =>
    intro s hc
    obtain ⟨-, hl, -⟩ := hc
    obtain ⟨-, hf⟩ := loadable_iff.1 hl
    simp [progresses, hf]
  | cons c rest ih =>
    intro s hc
    obtain ⟨-, -, hrest, ef, e, hf, hsame⟩ := continued_cons hc
    obtain ⟨hle, hlt⟩ := activeSet_faultExit hf hsame
    have hih := ih hrest
    rw [List.countP_cons]
    split
    case isTrue hp => exact (Nat.succ_le_succ hih).trans (Finset.card_lt_card (hlt hp))
    case isFalse => exact hih.trans (Finset.card_le_card hle)

/-- Settles O51: the chain's last state continues `w`, and each fault exit that makes progress uses up an element. -/
theorem continuedChainGivesTheUninterruptedResult : Obligations.ContinuedChainGivesTheUninterruptedResult := by
  intro i w s last rest hrw hlw hsame hc hlast
  obtain ⟨hr, hl, hloads, hcont⟩ := (Continues.of_sameOperands hsame).getLast hc hlast
  have hxw := exec_of_loadable hrw hlw
  obtain ⟨-, -, hover⟩ := hrw
  refine ⟨⟨_, _, exec_of_loadable hr hl, hxw, ?_, ?_,
    fun k hd hm => complete_vreg_other last hd hm, rfl⟩, ?_⟩
  · rw [complete_vreg_dest _ hover, complete_vreg_dest _ hover, hcont.cfg, hcont.destAtCompletion_eq hl hloads]
  · rw [complete_vreg_mask, complete_vreg_mask, hcont.cfg]
  · calc (s :: rest).countP (progresses i.form i.gather)
        ≤ (activeSet i.form i.gather s).card := countP_progresses_le hc
      _ ≤ (Finset.range i.form.n).card := Finset.card_filter_le _ _
      _ = i.form.n := Finset.card_range _

end Sys2Proof.Machine
end

section
/-! SUPPORT. The frame of an execution (40_gather_common R129, R134, R144; 10_state R31 to R33, R36; 60_exceptions R186,
R198). -/

namespace Sys2Proof.Machine

section
variable {i : Instr} {s t : State} (h : exec i s = .next t)
include h

/-- The fields an execution can write; every other field is the old one. -/
theorem exec_next_eq :
    ∃ v pc rf cr2 exc reads draws,
      t = { s with v := v, pc := pc, rf := rf, cr2 := cr2, exc := exc, reads := reads, draws := draws } := by
  rcases exec_next_cases h with ⟨-, -, rfl⟩ | ⟨-, -, -, rfl⟩ | ⟨-, -, k, e, -, rfl⟩ | ⟨-, -, -, rfl⟩
  · exact ⟨_, _, _, _, _, _, _, rfl⟩
  · exact ⟨_, _, _, _, _, _, _, rfl⟩
  · exact ⟨_, _, _, _, _, _, _, faultExit_eq _ _ s k e⟩
  · exact ⟨_, _, _, _, _, _, _, rfl⟩

/-- An execution that is not ready writes no vector register; a ready one writes destination and mask alone. -/
theorem exec_next_vreg :
    t.vreg = s.vreg ∨ i.gather.overlaps = false
      ∧ ∀ k, k ≠ i.gather.dest → k ≠ i.gather.mask → t.vreg k = s.vreg k := by
  rcases exec_next_cases h with ⟨-, -, rfl⟩ | ⟨-, -, -, rfl⟩ | ⟨⟨-, -, hover⟩, -, k, e, -, rfl⟩ |
    ⟨⟨-, -, hover⟩, -, -, rfl⟩
  · exact .inl rfl
  · exact .inl rfl
  · exact .inr ⟨hover, fun _ => faultExit_vreg_other _ _ s k e⟩
  · exact .inr ⟨hover, fun _ => complete_vreg_other s⟩

/-- R186: `cr2` changes only with a page fault. -/
theorem exec_next_cr2 : t.cr2 = s.cr2 ∨ ∃ r, t.exc = some r ∧ r.vec = 14 ∧ r.kind = .fault := by
  rcases exec_next_cases h with ⟨-, -, rfl⟩ | ⟨-, -, -, rfl⟩ | ⟨-, -, k, e, -, rfl⟩ | ⟨-, -, -, rfl⟩
  · exact .inl rfl
  · exact .inl rfl
  · exact (faultExit_cr2 _ _ s k e).imp_right And.right
  · exact .inl rfl

/-- R134, R197, R198: an execution completes, with RF cleared and nothing delivered, or leaves `pc` and RF. -/
theorem exec_next_pc_rf : (t.rf = false ∧ t.exc = s.exc) ∨ (t.pc = s.pc ∧ t.rf = s.rf) := by
  rcases exec_next_cases h with ⟨-, -, rfl⟩ | ⟨-, -, -, rfl⟩ | ⟨-, -, k, e, -, rfl⟩ | ⟨-, -, -, rfl⟩
  · exact .inr ⟨rfl, rfl⟩
  · exact .inr ⟨rfl, rfl⟩
  · exact .inr ⟨faultExitWith_pc _ _ _ _ _ _, faultExitWith_rf _ _ _ _ _ _⟩
  · exact .inl ⟨rfl, rfl⟩

end

/-- Settles O52: the fields written by `exec_next_eq`, the vector registers, `cr2`, `pc` and RF by their own lemmas. -/
theorem executionFrame : Obligations.ExecutionFrame := by
  intro i s t h
  have hother : ∀ k, k ≠ i.gather.dest → k ≠ i.gather.mask → t.vreg k = s.vreg k :=
    (exec_next_vreg h).elim (fun hv k _ _ => congrFun hv k) And.right
  have hindex : t.vreg i.gather.index = s.vreg i.gather.index := by
    rcases exec_next_vreg h with hv | ⟨hover, hv⟩
    · exact congrFun hv _
    · obtain ⟨hd, hm⟩ := Gather.index_ne hover
      exact hv _ hd hm
  have hcr2 := exec_next_cr2 h
  have hpc := exec_next_pc_rf h
  obtain ⟨v, pc, rf, cr2, exc, reads, draws, rfl⟩ := exec_next_eq h
  refine ⟨fun _ => rfl, hindex, hother, fun _ => rfl, rfl, rfl, rfl, rfl, rfl, rfl, rfl, rfl, rfl, rfl, rfl, hcr2, ?_,
    hpc.imp_left And.right⟩
  exact hpc.elim (fun hdone => .inr hdone.1) (fun hkept => .inl hkept.2)

end Sys2Proof.Machine
end

section
/-! SUPPORT. The result of a gather whose selected elements all load (40_gather_common R124 to R126, R131 to R134;
20_memory R53, R58 to R60, R65), from premises on state and operands alone; VGATHERDPS (41_vgatherdps R160, R161). -/

namespace Sys2Proof.Machine

/-! ## The load of a selected element -/

/-- The four bytes at a linear address translate to the physical addresses `p`, outside `IoAddrs`, and are the bytes of
the dword (R53, R59, R60, R65). -/
abbrev State.holdsDword (s : State) (la : Qword) (p : Nat → Qword) (val : Dword) : Prop :=
  ∀ b, b < 4 → s.translate (wrapLinear s.mode (la + BitVec.ofNat 64 b)) = .phys (p b)
    ∧ s.isIo (p b) = false ∧ val.extractLsb' (8 * b) 8 = s.mem.read (p b).toNat

theorem State.memRead_of_holdsDword {s : State} {la : Qword} {p : Nat → Qword} {val : Dword}
    (h : s.holdsDword la p val) : s.memRead la = .ok val ((List.range 4).map p) :=
  State.memRead_eq_ok_iff_bytes.2 ⟨by simp, fun b hb => ⟨p b, by simp [hb], h b hb⟩⟩

/-- R130: an active element whose address passes `Lin` receives the dword held there. -/
theorem elemLoad_of_holdsDword {f : Form} {g : Gather} {s : State} {j : Nat} {la : Qword} {p : Nat → Qword} {val : Dword}
    (ha : active f g s j = true) (hlin : lin s g.seg (effAddr f g s j) = .ok la) (h : s.holdsDword la p val) :
    elemLoad f g s j = .ok val ((List.range 4).map p) :=
  (elemLoad_eq_iff (by simp) (by simp)).2 ⟨ha, la, hlin, State.memRead_of_holdsDword h⟩

/-- R125, R126: the effective address of an element with a dword index. -/
theorem effAddr_of_dwordIndex {f : Form} (h : f.iw = 32) (g : Gather) (s : State) (j : Nat) :
    effAddr f g s j
      = truncA g.asize (baseValue g s + (elem32 (s.vreg g.index) j).signExtend 64 * scaleValue g.scale + g.disp) := by
  rw [effAddr, indexElem, if_pos h]

/-! ## The result -/

/-- R133: an element of the destination above the gathered ones is zero. -/
theorem elem32_complete_dest_tail {f : Form} {g : Gather} (s : State) (h : g.overlaps = false) {j : Nat} (hn : f.n ≤ j)
    (hj : j < s.cfg.vlmax / 32) : elem32 ((complete f g s).vreg g.dest) j = 0#32 := by
  rw [complete_vreg_dest s h, elem32_ofElems _ hj, destAtCompletion, if_neg hn.not_gt]

/-- R131 to R134: a ready gather each of whose selected elements passes `Lin` and holds a dword merges these dwords into
the destination, zeroes its tail and the mask, and retires. -/
theorem exec_of_holdsDword {i : Instr} {s : State} {la : Nat → Qword} {val : Nat → Dword} {phys : Nat → Nat → Qword}
    (hr : s.ready i.gather)
    (h : ∀ j, j < i.form.n → maskBit (s.vreg i.gather.mask) j = true →
      lin s i.gather.seg (effAddr i.form i.gather s j) = .ok (la j) ∧ s.holdsDword (la j) (phys j) (val j)) :
    ∃ t, exec i s = .next t
      ∧ (∀ j, j < i.form.n → elem32 (t.vreg i.gather.dest) j
          = if maskBit (s.vreg i.gather.mask) j = true then val j else elem32 (s.vreg i.gather.dest) j)
      ∧ (∀ j, i.form.n ≤ j → j < s.cfg.vlmax / 32 → elem32 (t.vreg i.gather.dest) j = 0#32)
      ∧ t.vreg i.gather.mask = VReg.zero s.cfg.vlmax ∧ t.pc = s.nextPc i.gather.len ∧ t.rf = false ∧ t.exc = s.exc := by
  have hload : ∀ j, active i.form i.gather s j = true →
      elemLoad i.form i.gather s j = .ok (val j) ((List.range 4).map (phys j)) := by
    intro j ha
    obtain ⟨hj, hbit⟩ := active_iff.1 ha
    obtain ⟨hlin, hbytes⟩ := h j hj hbit
    exact elemLoad_of_holdsDword ha hlin hbytes
  have hx := exec_of_loadable hr fun j _ ha => by rw [hload j ha, Load.isOk]
  obtain ⟨-, -, hover⟩ := hr
  refine ⟨_, hx, fun j hj => ?_, fun j => elem32_complete_dest_tail s hover, complete_vreg_mask _ _ s, rfl, rfl, rfl⟩
  rw [elem32_complete_dest s hover hj]
  cases hbit : maskBit (s.vreg i.gather.mask) j with
  | true =>
    have ha := active_iff.2 ⟨hj, hbit⟩
    simp [ha, hload j ha, Load.value]
  | false => simp [active, hbit]

/-! ## VGATHERDPS (R160, R161) -/

/-- Settles O20: four elements with dword indices. -/
theorem vgatherdps128Gathers : Obligations.Vgatherdps128Gathers := fun g _ _ _ _ hr h =>
  exec_of_holdsDword (i := .vgatherdps128 g) hr fun j hj hbit => by
    rw [effAddr_of_dwordIndex rfl]
    exact h j hj hbit

/-- Settles O21: eight elements with dword indices. -/
theorem vgatherdps256Gathers : Obligations.Vgatherdps256Gathers := fun g _ _ _ _ hr h =>
  exec_of_holdsDword (i := .vgatherdps256 g) hr fun j hj hbit => by
    rw [effAddr_of_dwordIndex rfl]
    exact h j hj hbit

end Sys2Proof.Machine
end

section
/-! SUPPORT. The result of VGATHERQPS (42_vgatherqps R170, R171): `exec_of_holdsDword` at the qword indices of R125. -/

namespace Sys2Proof.Machine

/-- R125, R126: the effective address of an element with a qword index. -/
theorem effAddr_of_qwordIndex {f : Form} (h : f.iw = 64) (g : Gather) (s : State) (j : Nat) :
    effAddr f g s j = truncA g.asize (baseValue g s + elem64 (s.vreg g.index) j * scaleValue g.scale + g.disp) := by
  have hne : f.iw ≠ 32 := by omega
  rw [effAddr, indexElem, if_neg hne]

/-- Settles O22: two elements with qword indices. -/
theorem vgatherqps128Gathers : Obligations.Vgatherqps128Gathers := fun g _ _ _ _ hr h =>
  exec_of_holdsDword (i := .vgatherqps128 g) hr fun j hj hbit => by
    rw [effAddr_of_qwordIndex rfl]
    exact h j hj hbit

/-- Settles O23: four elements with qword indices. -/
theorem vgatherqps256Gathers : Obligations.Vgatherqps256Gathers := fun g _ _ _ _ hr h =>
  exec_of_holdsDword (i := .vgatherqps256 g) hr fun j hj hbit => by
    rw [effAddr_of_qwordIndex rfl]
    exact h j hj hbit

end Sys2Proof.Machine
end

section
/-! SUPPORT. Exceptions (60_exceptions R180 to R188, R196 to R202): the step where the decoder answers #UD and where an
exception is delivered, and the record an execution leaves: a fault of R180's table or, in lieu of it, a pending event. -/

namespace Sys2Proof.Machine

/-! ## The step and a delivered exception (R196, R202) -/

/-- Settles O9: the record is that of `raiseUd`. -/
theorem stepTakesUdOfIllegalForms : Obligations.StepTakesUdOfIllegalForms :=
  fun _ _ he hf hd => step_of_decode_ud he hf hd

/-- Settles O10, by the step's definition. -/
theorem stepContinuesAfterHandler : Obligations.StepContinuesAfterHandler := by
  intro s e edits rest he hh
  simp only [step, he, hh, State.handle]

/-- Settles O11, by the step's definition. -/
theorem unhandledExceptionEndsTheRun : Obligations.UnhandledExceptionEndsTheRun := by
  intro s e he hh
  simp only [step, he, hh]

/-! ## The record of a fault exit (R180, R184 to R186, R200) -/

/-- R180: the vector of an element's exception. -/
def ElemExc.vec : ElemExc → Nat
  | .gp0 => 13
  | .ss0 => 12
  | .pf _ => 14

theorem ElemExc.vec_mem (e : ElemExc) : e.vec ∈ [6, 7, 12, 13, 14] := by
  cases e <;> simp [ElemExc.vec]

theorem deliverElem_exc (d : Draws) (s : State) (e : ElemExc) :
    ∃ code, (deliverElem d s e).exc = some ⟨e.vec, code, .fault, s.pc, true⟩ := by
  cases e <;> exact ⟨_, rfl⟩

/-- R200: a pending event is a trap or an interrupt. -/
theorem EventKind.toExc_ne_fault (k : EventKind) : k.toExc ≠ .fault := by
  cases k <;> decide

section
variable {f : Form} {g : Gather} {s : State} {ef : Nat}

/-- R200: the event that replaces the fault is the first of those to be reported. -/
theorem pendingFor_eq_some {earlier later : List PendingEvent} {ev : PendingEvent}
    (hpending : s.pending = earlier ++ ev :: later) (hearlier : ∀ ev' ∈ earlier, ¬ reports f g s ef ev')
    (hrep : reports f g s ef ev) : pendingFor f g s (completedSet (drawsOf f g s) f g s ef) = some ev := by
  have hne : completedSet (drawsOf f g s) f g s ef ≠ [] := by
    obtain ⟨j, hlt, hg, -⟩ := hrep
    exact List.ne_nil_of_mem (mem_completedSet.2 ⟨hlt, hg⟩)
  rw [pendingFor, if_neg (mt List.isEmpty_iff.1 hne), List.find?_eq_some_iff_append]
  exact ⟨(fires_iff_reports hne).2 hrep, earlier, later, hpending,
    fun ev' hmem => by simpa using mt (fires_iff_reports hne).1 (hearlier ev' hmem)⟩

theorem mem_pending_of_pendingFor {done : List Nat} {ev : PendingEvent} (h : pendingFor f g s done = some ev) :
    ev ∈ s.pending := by
  unfold pendingFor at h
  split at h
  · cases h
  · exact List.mem_of_find?_eq_some h

theorem faultExit_of_pendingFor {ev : PendingEvent} (e : ElemExc)
    (h : pendingFor f g s (completedSet (drawsOf f g s) f g s ef) = some ev) :
    faultExit f g s ef e = (partialUpdate (drawsOf f g s) f g s ef).deliver ev.vec none ev.kind.toExc := by
  simp only [faultExit, faultExitWith, h]

/-- The record of a fault exit is that of a pending event or that of the element's exception. -/
theorem faultExit_record (e : ElemExc) :
    (∃ ev ∈ s.pending, (faultExit f g s ef e).exc = some ⟨ev.vec, none, ev.kind.toExc, s.pc, true⟩)
      ∨ ∃ code, (faultExit f g s ef e).exc = some ⟨e.vec, code, .fault, s.pc, true⟩ := by
  cases hp : pendingFor f g s (completedSet (drawsOf f g s) f g s ef) with
  | some ev =>
    rw [faultExit_of_pendingFor e hp]
    exact .inl ⟨ev, mem_pending_of_pendingFor hp, rfl⟩
  | none =>
    rw [faultExit, faultExitWith_of_noPending _ _ _ _ _ _ hp]
    exact .inr (deliverElem_exc _ _ e)

end

/-- Settles O47: the record is the one of `faultExit_record`; which event replaces the fault is `pendingFor`'s answer. -/
theorem pendingEventReplacesTheFault : Obligations.PendingEventReplacesTheFault := by
  intro i s ef e hr hd hf
  obtain ⟨r, hexc, hpc, hrf⟩ : ∃ r, (faultExit i.form i.gather s ef e).exc = some r ∧ r.savedPc = s.pc
      ∧ r.savedRf = true := by
    rcases faultExit_record e with ⟨ev, -, h⟩ | ⟨code, h⟩ <;> exact ⟨_, h, rfl, rfl⟩
  refine ⟨_, r, exec_of_faulting hr hd hf, hexc, hpc, hrf, ?_, ?_⟩
  · intro earlier ev later hpending hearlier hrep
    have hexit := faultExit_of_pendingFor e (pendingFor_eq_some hpending hearlier hrep)
    rw [hexit] at hexc ⊢
    cases hexc
    exact ⟨rfl, rfl, rfl, by cases ev.kind <;> rfl⟩
  · intro hnone
    obtain ⟨code, h⟩ := deliverElem_exc (drawsOf i.form i.gather s)
      (partialUpdate (drawsOf i.form i.gather s) i.form i.gather s ef) e
    rw [faultExit, faultExitWith_of_noPending _ _ _ _ _ _ (pendingFor_eq_none_iff.2 hnone), h] at hexc
    cases hexc
    exact ⟨rfl, by cases e <;> rfl⟩

/-! ## The record of an execution (R180, R187, R188, R197, R198) -/

/-- The record an execution leaves where nothing was delivered before: it is restartable, and it is a fault with a vector
of R180's table or a pending event (R200). -/
theorem exec_next_record {i : Instr} {s t : State} {r : Delivered} (h : exec i s = .next t) (hs : s.exc = none)
    (ht : t.exc = some r) :
    r.savedPc = s.pc ∧ r.savedRf = true
      ∧ ((r.kind = .fault ∧ r.vec ∈ [6, 7, 12, 13, 14]) ∨ (r.kind ≠ .fault ∧ ∃ ev ∈ s.pending, ev.vec = r.vec)) := by
  rcases exec_next_cases h with ⟨-, -, rfl⟩ | ⟨-, -, -, rfl⟩ | ⟨-, -, k, e, -, rfl⟩ | ⟨-, -, -, rfl⟩
  · cases ht
    exact ⟨rfl, rfl, .inl ⟨rfl, by simp⟩⟩
  · cases ht
    exact ⟨rfl, rfl, .inl ⟨rfl, by simp⟩⟩
  · rcases faultExit_record e with ⟨ev, hmem, hexc⟩ | ⟨code, hexc⟩ <;> cases hexc.symm.trans ht
    · exact ⟨rfl, rfl, .inr ⟨ev.kind.toExc_ne_fault, ev, hmem, rfl⟩⟩
    · exact ⟨rfl, rfl, .inl ⟨rfl, e.vec_mem⟩⟩
  · cases hs.symm.trans ht

/-- Settles O48: the record is restartable; with an exception delivered the execution did not complete. -/
theorem exceptionsAreRestartable : Obligations.ExceptionsAreRestartable := by
  intro i s t r hs h ht
  obtain ⟨hpc, hrf, -⟩ := exec_next_record h hs ht
  rcases exec_next_pc_rf h with ⟨-, hexc⟩ | hkept
  · cases ht.symm.trans (hexc.trans hs)
  · exact ⟨hpc, hrf, hkept⟩

/-- Settles O49: MXCSR is not among the fields an execution writes; the vectors are those of `exec_next_record`. -/
theorem neverAlignmentCheckOrSimdException : Obligations.NeverAlignmentCheckOrSimdException := by
  intro i s t h
  constructor
  · obtain ⟨v, pc, rf, cr2, exc, reads, draws, rfl⟩ := exec_next_eq h
    rfl
  · intro r hs ht
    obtain ⟨-, -, ⟨hkind, hvec⟩ | ⟨hkind, hevent⟩⟩ := exec_next_record h hs ht
    · simp only [List.mem_cons, List.not_mem_nil, or_false] at hvec
      exact ⟨fun _ => ⟨hvec, by omega, by omega⟩, fun hne => absurd hkind hne⟩
    · exact ⟨fun heq => absurd heq hkind, fun _ => hevent⟩

end Sys2Proof.Machine
end
